-- ==== Sys2Proof/Word.lean ====
section
/-! DEFINITION. The value types of the block: Byte, Block, RoundKeys and the 32-bit word of four bytes. -/

namespace Sys2Proof

/-- A Byte: an unsigned 8-bit value, bit 0 the least significant bit (00_scope.md R7, R8). -/
abbrev Byte := BitVec 8

/-- A Block: 16 bytes `B[0]..B[15]` (00_scope.md R9). -/
abbrev Block := Vector Byte 16

/-- A RoundKeys value: 176 bytes `RK[0]..RK[175]`, eleven round keys of 16 bytes (00_scope.md R9). -/
abbrev RoundKeys := Vector Byte 176

/-- A round index `0..10` (10_state.md R36, R41). -/
abbrev Round := Fin 11

/-- A 32-bit word as the four bytes it is, `a0‖a1‖a2‖a3` with `a0` the most significant byte (00_scope.md R11).
The spec only moves, substitutes and xors its bytes, so it is a record of bytes and not a number.
A column of a Block has the same shape (43_encrypt_engine.md R203). -/
structure Word where
  a0 : Byte
  a1 : Byte
  a2 : Byte
  a3 : Byte
  deriving DecidableEq, Repr

end Sys2Proof
end

