-- ==== Sys2Proof/Syntax.lean ====
section
/-! DEFINITION. The command set (one constructor per row of spec/opcode_table.json), the host's transactions,
and the notation host programs are written in. -/

namespace Sys2Proof

/-- The commands of the opcode map, 30_encoding.md R101: one constructor per row of spec/opcode_table.json.
A command has no operands: what it reads and writes is implicit (R104). -/
inductive Instr where
  /-- NOP, command byte 0x00 (45_host_commands.md R263). -/
  | nop
  /-- EXPAND, command byte 0x01 (45_host_commands.md R264). -/
  | expand
  /-- ENCRYPT, command byte 0x02 (45_host_commands.md R265). -/
  | encrypt
  /-- DECRYPT, command byte 0x03 (45_host_commands.md R266). -/
  | decrypt
  deriving DecidableEq, Repr

/-- A bus transaction, the one way the host reaches the block (20_memory.md R70, R77): what a bus protocol delivers
(92_eei_decisions.md D25). -/
inductive BusTransaction where
  /-- `MemWrite(off, 1, v)`, D25's `Write(off, v)`. -/
  | write (off v : Byte)
  /-- `MemRead(off, 1)`, D25's `Read(off)`; the byte it returns is the block's answer. -/
  | read (off : Byte)
  deriving DecidableEq, Repr

/-- What the host does in one of its turns: a bus transaction, and for a poll the host's own decision to repeat it
(30_encoding.md R108, R109). -/
inductive HostOp where
  /-- `MemWrite(off, 1, v)`. -/
  | write (off v : Byte)
  /-- `MemRead(off, 1)`. -/
  | read (off : Byte)
  /-- `POLL off, mask, val`: one `MemRead(off, 1)` a turn, repeated while `(t & mask) ≠ val` (log 12). -/
  | poll (off mask val : Byte)
  deriving DecidableEq, Repr

/-- A line of a host program, as 30_encoding.md R108 and R109 write it.
Hex strings are lists of bytes, byte 0 first, so that a string of a wrong length can be written and refused. -/
inductive HostLine where
  /-- `WR off, val` -/
  | wr (off val : Byte)
  /-- `RD off` -/
  | rd (off : Byte)
  /-- `RD off -> val`: the same transaction as `RD off`; the expectation is the program's, not the block's. -/
  | rdExpect (off val : Byte)
  /-- `CMD NOP`, `CMD EXPAND`, `CMD ENCRYPT`, `CMD DECRYPT` -/
  | cmd (i : Instr)
  /-- `POLL off, mask, val` -/
  | poll (off mask val : Byte)
  /-- `WAIT` -/
  | wait
  /-- `CLRERR` -/
  | clrerr
  /-- `LDKEY h` -/
  | ldkey (h : List Byte)
  /-- `LDBLK h` -/
  | ldblk (h : List Byte)
  /-- `RDBLK -> h` -/
  | rdblk (h : List Byte)
  /-- `RDRK k -> h` -/
  | rdrk (k : Nat) (h : List Byte)
  deriving DecidableEq, Repr

end Sys2Proof
end

