-- ==== Sys2Proof/WellFormed.lean ====
section
/-! DEFINITION. Which terms of Syntax the spec gives a meaning to. -/

namespace Sys2Proof

/-- Every command is well formed: it has no register, immediate, mode or function field (30_encoding.md R100, R104). -/
def Instr.wf : Instr → Bool
  | .nop => true
  | .expand => true
  | .encrypt => true
  | .decrypt => true

/-- A command byte that spells a command: 0x00..0x03 (30_encoding.md R101); 0x04..0xFF spell none (R102). -/
def commandByteDefined (b : Byte) : Bool := b.toNat < 0x04

/-- A hex string of a key or block has 32 digits, that is 16 bytes (30_encoding.md R109). -/
def hexBlockWf (h : List Byte) : Bool := h.length == 16

/-- A line of a host program is well formed when its hex string has 16 bytes and its round key index is 0..10
(30_encoding.md R109). -/
def HostLine.wf : HostLine → Bool
  | .wr _ _ => true
  | .rd _ => true
  | .rdExpect _ _ => true
  | .cmd i => i.wf
  | .poll _ _ _ => true
  | .wait => true
  | .clrerr => true
  | .ldkey h => hexBlockWf h
  | .ldblk h => hexBlockWf h
  | .rdblk h => hexBlockWf h
  | .rdrk k h => decide (k ≤ 10) && hexBlockWf h

end Sys2Proof
end

