-- ==== Sys2Proof/Decode.lean ====
section
/-! DEFINITION. The command decoder (30_encoding.md R100-R103, R105), total and rejecting by name, and the encoder. -/

namespace Sys2Proof

/-- A row of the opcode map: a byte `b` spells `instr` when `b &&& mask = pattern`. -/
structure OpcodeRow where
  mask : Byte
  pattern : Byte
  instr : Instr
  deriving DecidableEq, Repr

/-- Why a byte sequence is no command. -/
inductive Reject where
  /-- A reserved opcode, 0x04..0xFF (30_encoding.md R102). -/
  | reservedOpcode (b : Byte)
  /-- There is no byte to decode. -/
  | noByte
  deriving DecidableEq, Repr

/-- The opcode map of 30_encoding.md R101. The decoder compares all eight bits (R100), so every mask is 0xFF. -/
def opcodeTable : List OpcodeRow :=
  [ { mask := 0xFF, pattern := 0x00, instr := .nop },
    { mask := 0xFF, pattern := 0x01, instr := .expand },
    { mask := 0xFF, pattern := 0x02, instr := .encrypt },
    { mask := 0xFF, pattern := 0x03, instr := .decrypt } ]

/-- A byte fits a row of the opcode map. -/
def OpcodeRow.fits (row : OpcodeRow) (b : Byte) : Bool := b &&& row.mask == row.pattern

/-- Decode one command byte: the row it fits, or the reserved opcode by name (30_encoding.md R101, R102). -/
def decode (b : Byte) : Except Reject Instr :=
  match opcodeTable.find? (fun row => row.fits b) with
  | some row => .ok row.instr
  | none => .error (.reservedOpcode b)

/-- Decode the first command of a byte sequence and give back the rest: every command is one byte (30_encoding.md R105). -/
def decodeBytes : List Byte → Except Reject (Instr × List Byte)
  | [] => .error .noByte
  | b :: rest =>
    match decode b with
    | .ok i => .ok (i, rest)
    | .error r => .error r

/-- The command byte of an instruction (30_encoding.md R101). -/
def encode : Instr → Byte
  | .nop => 0x00
  | .expand => 0x01
  | .encrypt => 0x02
  | .decrypt => 0x03

/-- The one byte of the instruction whose `nbits` bits are `w`, as spec/opcode_table.json numbers them:
bit 0 the least significant bit; the bits above `nbits` are 0. -/
def tableByte (nbits w : Nat) : Byte := BitVec.ofNat 8 (w % 2 ^ nbits)

/-- The instruction the decoder reads from an opcode-table word of `nbits` bits.
A command is exactly one byte (30_encoding.md R105), so a word with a bit set above bit 7 is none. -/
def decodeTableWord (nbits w : Nat) : Option Instr :=
  if w % 2 ^ nbits < 2 ^ 8 then
    match decodeBytes [tableByte nbits w] with
    | .ok (i, _) => some i
    | .error _ => none
  else none

end Sys2Proof
end

