-- ==== Sys2Proof/Machine/GfMultiplier.lean ====
section
/-! DEFINITION. The Galois-field multiplier: doubling, the six products, and the field product they are measured against
(40_gf_multiplier.md). -/

namespace Sys2Proof.Machine

/-- `double(x)`: the shift drops bit 7, and 0x1B is xored in when bit 7 was set (40_gf_multiplier.md R131). -/
def double (x : Byte) : Byte := (x <<< 1) ^^^ (if x.getLsbD 7 then 0x1B else 0x00)

/-- `d4(x)` (40_gf_multiplier.md, section 3). -/
def double2 (x : Byte) : Byte := double (double x)

/-- `d8(x)` (40_gf_multiplier.md, section 3). -/
def double3 (x : Byte) : Byte := double (double (double x))

/-- `mul2(x)` (40_gf_multiplier.md R132). -/
def mul2 (x : Byte) : Byte := double x

/-- `mul3(x)`, 3 = 2⊕1 (40_gf_multiplier.md R133). -/
def mul3 (x : Byte) : Byte := double x ^^^ x

/-- `mul9(x)`, 9 = 8⊕1 (40_gf_multiplier.md R134). -/
def mul9 (x : Byte) : Byte := double3 x ^^^ x

/-- `mul11(x)`, 11 = 8⊕2⊕1 (40_gf_multiplier.md R135). -/
def mul11 (x : Byte) : Byte := double3 x ^^^ double x ^^^ x

/-- `mul13(x)`, 13 = 8⊕4⊕1 (40_gf_multiplier.md R136). -/
def mul13 (x : Byte) : Byte := double3 x ^^^ double2 x ^^^ x

/-- `mul14(x)`, 14 = 8⊕4⊕2 (40_gf_multiplier.md R137). -/
def mul14 (x : Byte) : Byte := double3 x ^^^ double2 x ^^^ double x

/-- The product of two bytes read as polynomials over GF(2), unreduced: at most 15 bits. -/
def polyProduct (x y : Byte) : Nat :=
  (List.range 8).foldl (fun acc i => if y.getLsbD i then acc ^^^ (x.toNat <<< i) else acc) 0

/-- A polynomial of at most 15 bits reduced by x^8+x^4+x^3+x+1, 0x11B, from its highest bit down. -/
def polyReduce (p : Nat) : Byte :=
  BitVec.ofNat 8 ([14, 13, 12, 11, 10, 9, 8].foldl (fun acc i => if acc.testBit i then acc ^^^ (0x11B <<< (i - 8)) else acc) p)

/-- The product in GF(2^8) with reduction polynomial 0x11B (40_gf_multiplier.md R138; 00_scope.md R6), by multiplying the
polynomials and reducing: the measure of the six products, which no step reads. -/
def gfProduct (x y : Byte) : Byte := polyReduce (polyProduct x y)

/-- The direct product by repeated doubling, `p = 0; for each bit i of N set: p <- p xor double^i(x)`
(40_gf_multiplier.md R138). -/
def repeatedDoubling (x n : Byte) : Byte :=
  (List.range 8).foldl (fun p i => if n.getLsbD i then p ^^^ double^[i] x else p) 0x00

end Sys2Proof.Machine
end

