-- ==== Sys2Proof/Config.lean ====
section
/-! DEFINITION. What the spec leaves open: the OPEN parameters of 00_scope.md R6 and the free bytes ("any Byte"). -/

namespace Sys2Proof

/-- `any Byte`: the n-th draw of the machine, an arbitrary byte under no law (00_scope.md R12).
No body: nothing can be proved of a drawn byte's value.
The n is the counter `env.draws` of State, so that every occurrence is a fresh draw (log 4). -/
opaque Config.freeByte : Nat → Byte

/-- `BASE`: the platform address of the register window, OPEN (00_scope.md R6, 92_eei_decisions.md D3; log 8). -/
opaque Config.base : Nat

/-- One less than the clock cycles that the n-th sequencer step takes, OPEN (00_scope.md R6; log 9). -/
opaque Config.extraStepCycles : Nat → Nat

/-- `STEP_CYCLES` of the n-th sequencer step: at least 1, possibly varying (00_scope.md R6, 92_eei_decisions.md D8).
No step of the machine reads it (45_host_commands.md R269; log 9). -/
def Config.stepCycles (n : Nat) : Nat := Config.extraStepCycles n + 1

/-- What stands on the wires of the port at one moment: the spec gives no pins, widths or clock relation
(91_not_in_source.md, "Do not assume: any bus width, handshake, clock relation or pin list"), so the type itself is unknown
(log 14). -/
opaque Config.PortSample : Type

/-- Signals at the port: what stands on its wires at any moments, one after the other. -/
abbrev Config.Signals : Type := List Config.PortSample

/-- `BUS_PROTOCOL`, towards the block: the transactions that signals at the port deliver, one at a time, the first one first
(00_scope.md R6, 92_eei_decisions.md D25; log 14). OPEN: nothing can be proved of its value. -/
opaque Config.busProtocol : Config.Signals → List BusTransaction

/-- `BUS_PROTOCOL`, towards the host: the signals that return the byte `v` of a read at `off`
(00_scope.md R6, 92_eei_decisions.md D25; log 14). OPEN: nothing can be proved of its value. -/
opaque Config.busAnswer (off v : Byte) : Config.Signals

end Sys2Proof
end

