-- ==== Sys2Proof/Machine/State.lean ====
section
/-! DEFINITION. The state of the block and its environment, the reasons a step can stop, and the state after reset. -/

namespace Sys2Proof.Machine

/-- The sequencer's control point: the step that runs next, or IDLE; 34 values (10_state.md R36). -/
inductive Seq where
  /-- IDLE: no command is running. -/
  | idle
  /-- KEX(r), EXPAND: KEX(0) copies the key, KEX(r) builds round key r. -/
  | kex (r : Round)
  /-- ENC(r), ENCRYPT: ENC(0) is the initial AddRoundKey, ENC(r) is round r. -/
  | enc (r : Round)
  /-- DEC(r), DECRYPT: DEC(r) for r = 10..1 is round r, DEC(0) is the final AddRoundKey. -/
  | dec (r : Round)
  deriving DecidableEq, Repr

/-- The agents that act on the block (10_state.md R30). -/
inductive Agent where
  /-- The bus master that issues transactions. -/
  | host
  /-- The internal sequencer. -/
  | sequencer
  /-- The external reset event. -/
  | reset
  deriving DecidableEq, Repr

/-- What stands at an offset of the register window (20_memory.md R71). -/
inductive WindowReg where
  /-- KEY[i] at 0x00+i -/
  | key (i : Fin 16)
  /-- DATA[i] at 0x10+i -/
  | data (i : Fin 16)
  /-- CMD at 0x20 -/
  | cmd
  /-- STATUS at 0x21 -/
  | status
  /-- ERRCODE at 0x22 -/
  | errcode
  /-- RK[j] at 0x30+j -/
  | rk (j : Fin 176)
  /-- reserved, 0x23..0x2F and 0xE0..0xFF -/
  | reserved
  deriving DecidableEq, Repr

/-- The causes of `raise Error(code)` (60_exceptions.md R301). -/
inductive ErrorCause where
  /-- A reserved opcode written to CMD while BUSY=0 (60_exceptions.md R303). -/
  | illegalCmd
  /-- A write to KEY, DATA or CMD while BUSY=1 (60_exceptions.md R302). -/
  | busy
  /-- ENCRYPT or DECRYPT written while BUSY=0 and KV=0 (60_exceptions.md R304). -/
  | noKey
  deriving DecidableEq, Repr

/-- What stands around the block and is not the spec's state (10_state.md R31): the model's own fields. -/
structure Env where
  /-- The host's remaining operations, the next one first (log 2). -/
  host : List HostOp
  /-- Which agent takes each next transition (log 1). -/
  turns : List Agent
  /-- What the host's reads returned, as (offset, byte), the newest first (log 5). -/
  readLog : List (Byte × Byte)
  /-- How many free bytes have been drawn (log 4). -/
  draws : Nat
  deriving DecidableEq, Repr

/-- The block's state, field for field the record of 10_state.md R31, and its environment `env` (the model's own). -/
structure State where
  /-- KEY[0..15], the cipher key (10_state.md R32). -/
  key : Block
  /-- DATA[0..15], the block transformed in place (10_state.md R33). -/
  data : Block
  /-- RK[0..175], the round-key schedule (10_state.md R34). -/
  rk : RoundKeys
  /-- KV, RK holds a complete schedule (10_state.md R35). -/
  kv : Bool
  /-- The sequencer's control point (10_state.md R36). -/
  seq : Seq
  /-- ERR, the sticky error flag (10_state.md R38). -/
  err : Bool
  /-- ERRCODE, the first error's code (10_state.md R39). -/
  errcode : Byte
  /-- RCON, the hidden round constant (10_state.md R40). -/
  rcon : Byte
  /-- The environment; not the spec's state. -/
  env : Env
  deriving DecidableEq, Repr

/-- The block has no trap and no access that faults or hangs it (60_exceptions.md R300; 93_implementation_defined.md,
"No behaviour of the block is `stuck` or `fault`"), so there is no fault: nobody raises one, which is exact. -/
inductive Fault where
  deriving DecidableEq, Repr

/-- Why a step gives no meaning to an instruction. -/
inductive Refusal where
  /-- Raised only by an arm of `exec` whose instruction has no meaning yet; safe. No arm raises it. -/
  | notModelled (mnemonic : String)
  deriving DecidableEq, Repr

/-- The machine right after reset: the control state of 70_reset_and_hazards.md R330.
The spec leaves KEY, DATA, RK and RCON unspecified; they are 0x00 here, a DESIGN CHOICE, unsafe (log 3).
The environment is empty: the host has issued nothing yet (log 1, log 2, log 4, log 5). -/
def State.reset : State where
  key := Vector.replicate 16 0x00
  data := Vector.replicate 16 0x00
  rk := Vector.replicate 176 0x00
  kv := false
  seq := .idle
  err := false
  errcode := 0x00
  rcon := 0x00
  env := { host := [], turns := [], readLog := [], draws := 0 }

end Sys2Proof.Machine
end

