-- ==== Sys2Proof/Machine/Operands.lean ====
section
/-! DEFINITION. The operand forms: the word and column views of a Block, the round keys of RK, and the register window's map.
Commands have no explicit operands (30_encoding.md R104). -/

namespace Sys2Proof.Machine

/-- A word xor a word is bytewise (00_scope.md R11). -/
def wordXor (u v : Word) : Word :=
  { a0 := u.a0 ^^^ v.a0, a1 := u.a1 ^^^ v.a1, a2 := u.a2 ^^^ v.a2, a3 := u.a3 ^^^ v.a3 }

/-- Byte i of a word, the most significant byte first (00_scope.md R11). -/
def wordByte (w : Word) (i : Fin 4) : Byte :=
  match i with
  | 0 => w.a0
  | 1 => w.a1
  | 2 => w.a2
  | 3 => w.a3

/-- The 32-bit number `a0‖a1‖a2‖a3` (00_scope.md R11). -/
def wordBits (w : Word) : BitVec 32 := w.a0 ++ w.a1 ++ w.a2 ++ w.a3

/-- Bytes `4j..4j+3` of a Block: word j (00_scope.md R11), which is also column j of the matrix view (R10). -/
def blockWord (b : Block) (j : Fin 4) : Word :=
  { a0 := b[4 * j.val], a1 := b[4 * j.val + 1], a2 := b[4 * j.val + 2], a3 := b[4 * j.val + 3] }

/-- The Block of four words, or of four columns, in order (00_scope.md R10, R11). -/
def blockOfWords (w : Fin 4 → Word) : Block :=
  Vector.ofFn fun i => wordByte (w ⟨i.val / 4, by omega⟩) ⟨i.val % 4, by omega⟩

/-- The word written as eight hex digits, the first two being byte a0 (00_scope.md R11). -/
def hexWord (n : BitVec 32) : Word :=
  { a0 := n.extractLsb' 24 8, a1 := n.extractLsb' 16 8, a2 := n.extractLsb' 8 8, a3 := n.extractLsb' 0 8 }

/-- The Block written as a string of 32 hex digits, the first two being byte 0 (00_scope.md R9). -/
def hexBlock (n : BitVec 128) : Block := Vector.ofFn fun i => n.extractLsb' (8 * (15 - i.val)) 8

/-- The byte of row r and column c, `s[r][c] = B[r + 4c]` (00_scope.md R10). -/
def blockAt (b : Block) (r c : Fin 4) : Byte := b[r.val + 4 * c.val]

/-- The Block with byte `f r c` in row r and column c (00_scope.md R10). -/
def blockOfMatrix (f : Fin 4 → Fin 4 → Byte) : Block :=
  Vector.ofFn fun i => f ⟨i.val % 4, by omega⟩ ⟨i.val / 4, by omega⟩

/-- `(B xor C)[i] = B[i] xor C[i]` (00_scope.md R9). -/
def blockXor (a b : Block) : Block := Vector.ofFn fun i => a[i] ^^^ b[i]

/-- `RoundKey(k) = RK[16k..16k+15]` (00_scope.md R9). -/
def roundKey (rk : RoundKeys) (k : Round) : Block :=
  Vector.ofFn fun i => rk[16 * k.val + i.val]

/-- Word `w[n] = RK[4n]‖RK[4n+1]‖RK[4n+2]‖RK[4n+3]` of the schedule, n = 0..43 (42_key_expander.md R171). -/
def scheduleWord (rk : RoundKeys) (n : Fin 44) : Word :=
  { a0 := rk[4 * n.val], a1 := rk[4 * n.val + 1], a2 := rk[4 * n.val + 2], a3 := rk[4 * n.val + 3] }

/-- RK with round key k replaced, `RK[16k..16k+15] <- b` (42_key_expander.md R179). -/
def withRoundKey (rk : RoundKeys) (k : Round) (b : Block) : RoundKeys :=
  Vector.ofFn fun j => if j.val / 16 = k.val then b[j.val % 16] else rk[j]

/-- The register map: what stands at each of the 256 offsets (20_memory.md R71). -/
def windowReg (off : Byte) : WindowReg :=
  let n := off.toNat
  if hk : n < 0x10 then .key ⟨n, hk⟩
  else if hd : n < 0x20 then .data ⟨n - 0x10, by omega⟩
  else if n = 0x20 then .cmd
  else if n = 0x21 then .status
  else if n = 0x22 then .errcode
  else if n < 0x30 then .reserved
  else if hr : n < 0xE0 then .rk ⟨n - 0x30, by omega⟩
  else .reserved

/-- The platform address of an offset, `BASE + off` (20_memory.md R70; log 8). -/
def windowAddress (off : Byte) : Nat := Config.base + off.toNat

/-- The offset a platform address selects; an address outside the window is not the block's (20_memory.md R70, R81; log 8). -/
def windowOffset (addr : Nat) : Option Byte :=
  if Config.base ≤ addr ∧ addr < Config.base + 0x100 then some (BitVec.ofNat 8 (addr - Config.base)) else none

end Sys2Proof.Machine
end

