-- ==== Sys2Proof/Machine/Flags.lean ====
section
/-! DEFINITION. The status fields: BUSY and ROUND as functions of `seq`, STATUS as it is read, and the error codes. -/

namespace Sys2Proof.Machine

/-- BUSY: `seq ≠ IDLE` (10_state.md R37). -/
def State.busy (s : State) : Bool := s.seq != .idle

/-- ROUND of a control point: r, and 0 when IDLE (10_state.md R41). -/
def Seq.round : Seq → Nat
  | .idle => 0
  | .kex r => r.val
  | .enc r => r.val
  | .dec r => r.val

/-- A flag as a byte, 1 or 0. -/
def flagByte (b : Bool) : Byte := if b then 0x01 else 0x00

/-- STATUS as a read returns it: `ROUND << 4 | ERR << 2 | KV << 1 | BUSY` (30_encoding.md R106). -/
def State.status (s : State) : Byte :=
  BitVec.ofNat 8 s.seq.round <<< 4 ||| flagByte s.err <<< 2 ||| flagByte s.kv <<< 1 ||| flagByte s.busy

/-- The code of an error (30_encoding.md R107). -/
def ErrorCause.code : ErrorCause → Byte
  | .illegalCmd => 0x01
  | .busy => 0x02
  | .noKey => 0x03

/-- A STATUS write clears ERR when bit 2 of the written byte is 1 (60_exceptions.md R307). -/
def clearsError (v : Byte) : Bool := v.getLsbD 2

end Sys2Proof.Machine
end

