-- ==== Sys2Proof/Machine/Ops.lean ====
section
/-! DEFINITION. The named operations over the registers: one setter a register, the error report and its clearing,
the checks a command write makes, the draws, and the reset event. -/

namespace Sys2Proof.Machine

/-- `KEY[i] <- v` -/
def State.setKeyByte (s : State) (i : Fin 16) (v : Byte) : State := { s with key := s.key.set i.val v }

/-- `DATA[i] <- v` -/
def State.setDataByte (s : State) (i : Fin 16) (v : Byte) : State := { s with data := s.data.set i.val v }

/-- `KEY <- b` -/
def State.setKey (s : State) (b : Block) : State := { s with key := b }

/-- `DATA <- b` -/
def State.setData (s : State) (b : Block) : State := { s with data := b }

/-- `RK <- x` -/
def State.setRk (s : State) (x : RoundKeys) : State := { s with rk := x }

/-- `KV <- v` -/
def State.setKv (s : State) (v : Bool) : State := { s with kv := v }

/-- `seq <- q` -/
def State.setSeq (s : State) (q : Seq) : State := { s with seq := q }

/-- `ERR <- e; ERRCODE <- c`: the two change together only (10_state.md R39). -/
def State.setError (s : State) (e : Bool) (c : Byte) : State := { s with err := e, errcode := c }

/-- `RCON <- v` -/
def State.setRcon (s : State) (v : Byte) : State := { s with rcon := v }

/-- A change of the environment only. -/
def State.setEnv (s : State) (e : Env) : State := { s with env := e }

/-- `raise Error(code)`, the block's one way to report an error: it latches ERR and ERRCODE if ERR was 0 (first error
wins) and the transaction has no other effect (60_exceptions.md R301). There is no trap entry (R300). -/
def raiseError (c : ErrorCause) (s : State) : State :=
  if s.err then s else s.setError true c.code

/-- The clearing of the error latch, `ERR <- 0; ERRCODE <- 0x00` (60_exceptions.md R307). -/
def clearError (s : State) : State := s.setError false 0x00

/-- A write to KEY, DATA or CMD: rejected with Error(BUSY) while BUSY=1, else it does `act` (60_exceptions.md R302). -/
def unlessBusy (act : State → State) (s : State) : State :=
  if s.busy then raiseError .busy s else act s

/-- A command that needs a schedule: Error(NO_KEY) while KV=0, else it does `act` (60_exceptions.md R304). -/
def requireKey (act : State → State) (s : State) : State :=
  if s.kv then act s else raiseError .noKey s

/-- `n` fresh draws, as the byte each gives (log 4). -/
def drawnByte (s : State) (n : Nat) : Byte := Config.freeByte (s.env.draws + n)

/-- The environment after `n` draws. -/
def Env.drawn (e : Env) (n : Nat) : Env := { e with draws := e.draws + n }

/-- The bytes of KEY after a reset event: any Byte each (70_reset_and_hazards.md R330). -/
def resetKey (s : State) : Block := Vector.ofFn fun i => drawnByte s i.val

/-- The bytes of DATA after a reset event: any Byte each (70_reset_and_hazards.md R330). -/
def resetData (s : State) : Block := Vector.ofFn fun i => drawnByte s (16 + i.val)

/-- The bytes of RK after a reset event: any Byte each (70_reset_and_hazards.md R330). -/
def resetRk (s : State) : RoundKeys := Vector.ofFn fun i => drawnByte s (32 + i.val)

/-- The Reset event, atomically: the control state is set, and the 16 + 16 + 176 + 1 bytes of the stores are fresh
draws (70_reset_and_hazards.md R330, R331). The environment keeps its host, turns and log (log 11). -/
def resetEvent (s : State) : State where
  key := resetKey s
  data := resetData s
  rk := resetRk s
  kv := false
  seq := .idle
  err := false
  errcode := 0x00
  rcon := drawnByte s 208
  env := s.env.drawn 209

end Sys2Proof.Machine
end

