-- ==== Sys2Proof/Machine/EncryptEngine.lean ====
section
/-! DEFINITION. The encryption round engine: its primitives, its rounds, Encrypt, the steps ENC(0)..ENC(10), and ENCRYPT
(43_encrypt_engine.md). -/

namespace Sys2Proof.Machine

/-- `SubBytes(B)[i] = SboxF(B[i])` (43_encrypt_engine.md R201). -/
def subBytes (b : Block) : Block := Vector.ofFn fun i => sboxF b[i]

/-- `ShiftRows`: row r rotated left by r, new `s[r][c]` is old `s[r][(c + r) mod 4]` (43_encrypt_engine.md R202). -/
def shiftRows (b : Block) : Block := blockOfMatrix fun r c => blockAt b r ⟨(c.val + r.val) % 4, by omega⟩

/-- `MixColumn` on one column (43_encrypt_engine.md R203). -/
def mixColumn (a : Word) : Word :=
  { a0 := mul2 a.a0 ^^^ mul3 a.a1 ^^^ a.a2 ^^^ a.a3
    a1 := a.a0 ^^^ mul2 a.a1 ^^^ mul3 a.a2 ^^^ a.a3
    a2 := a.a0 ^^^ a.a1 ^^^ mul2 a.a2 ^^^ mul3 a.a3
    a3 := mul3 a.a0 ^^^ a.a1 ^^^ a.a2 ^^^ mul2 a.a3 }

/-- `MixColumns`: MixColumn on each column (43_encrypt_engine.md R204). -/
def mixColumns (b : Block) : Block := blockOfWords fun c => mixColumn (blockWord b c)

/-- `AddRoundKey(B, k)[i] = B[i] xor RK[16k + i]` (43_encrypt_engine.md R205). -/
def addRoundKey (rk : RoundKeys) (b : Block) (k : Round) : Block := blockXor b (roundKey rk k)

/-- `EncInit(B) = AddRoundKey(B, 0)` (43_encrypt_engine.md R206). -/
def encInit (rk : RoundKeys) (b : Block) : Block := addRoundKey rk b 0

/-- `EncRound(B, r)`, r = 1..9 (43_encrypt_engine.md R207). -/
def encRound (rk : RoundKeys) (b : Block) (r : Round) : Block :=
  addRoundKey rk (mixColumns (shiftRows (subBytes b))) r

/-- `EncFinal(B)`, round 10, without MixColumns (43_encrypt_engine.md R208). -/
def encFinal (rk : RoundKeys) (b : Block) : Block := addRoundKey rk (shiftRows (subBytes b)) 10

/-- `Encrypt(RK, P)` (43_encrypt_engine.md R209). -/
def encrypt (rk : RoundKeys) (p : Block) : Block :=
  encFinal rk (List.foldl (encRound rk) (encInit rk p) [1, 2, 3, 4, 5, 6, 7, 8, 9])

/-- What step ENC(r) makes of DATA (43_encrypt_engine.md R210). -/
def encData (rk : RoundKeys) (b : Block) (r : Round) : Block :=
  if r = 0 then encInit rk b else if r = 10 then encFinal rk b else encRound rk b r

/-- The control point after ENC(r): ENC(r+1), and IDLE after ENC(10) (43_encrypt_engine.md R210). -/
def encNext (r : Round) : Seq :=
  if h : r.val < 10 then .enc ⟨r.val + 1, by omega⟩ else .idle

/-- Step ENC(r) of ENCRYPT (43_encrypt_engine.md R210). -/
def stepEnc (r : Round) (s : State) : State := (s.setData (encData s.rk s.data r)).setSeq (encNext r)

/-- What ENCRYPT does when it is accepted: `seq <- ENC(0)` (45_host_commands.md R265). -/
def acceptEncrypt (s : State) : State := s.setSeq (.enc 0)

/-- ENCRYPT, the write of 0x02 to CMD (45_host_commands.md R265). -/
def execEncrypt (s : State) : Host.Outcome State Fault Refusal := .next (unlessBusy (requireKey acceptEncrypt) s)

end Sys2Proof.Machine
end

