-- ==== Sys2Proof/Machine/DecryptEngine.lean ====
section
/-! DEFINITION. The decryption round engine: its primitives, its rounds, Decrypt, the steps DEC(10)..DEC(0), and DECRYPT
(44_decrypt_engine.md). -/

namespace Sys2Proof.Machine

/-- `InvSubBytes(B)[i] = SboxI(B[i])` (44_decrypt_engine.md R231). -/
def invSubBytes (b : Block) : Block := Vector.ofFn fun i => sboxI b[i]

/-- `InvShiftRows`: row r rotated right by r, new `s[r][c]` is old `s[r][(c - r) mod 4]` (44_decrypt_engine.md R232). -/
def invShiftRows (b : Block) : Block := blockOfMatrix fun r c => blockAt b r ⟨(c.val + 4 - r.val) % 4, by omega⟩

/-- `InvMixColumn` on one column, each row's coefficients the row above rotated right (44_decrypt_engine.md R233). -/
def invMixColumn (a : Word) : Word :=
  { a0 := mul14 a.a0 ^^^ mul11 a.a1 ^^^ mul13 a.a2 ^^^ mul9 a.a3
    a1 := mul9 a.a0 ^^^ mul14 a.a1 ^^^ mul11 a.a2 ^^^ mul13 a.a3
    a2 := mul13 a.a0 ^^^ mul9 a.a1 ^^^ mul14 a.a2 ^^^ mul11 a.a3
    a3 := mul11 a.a0 ^^^ mul13 a.a1 ^^^ mul9 a.a2 ^^^ mul14 a.a3 }

/-- `InvMixColumns`: InvMixColumn on each column (44_decrypt_engine.md R234). -/
def invMixColumns (b : Block) : Block := blockOfWords fun c => invMixColumn (blockWord b c)

/-- `DecFirst(B)`, decrypt round 10, without InvMixColumns (44_decrypt_engine.md R235). -/
def decFirst (rk : RoundKeys) (b : Block) : Block := invSubBytes (invShiftRows (addRoundKey rk b 10))

/-- `DecRound(B, r)`, r = 9 down to 1 (44_decrypt_engine.md R236). -/
def decRound (rk : RoundKeys) (b : Block) (r : Round) : Block :=
  invSubBytes (invShiftRows (invMixColumns (addRoundKey rk b r)))

/-- `DecFinal(B) = AddRoundKey(B, 0)` (44_decrypt_engine.md R237). -/
def decFinal (rk : RoundKeys) (b : Block) : Block := addRoundKey rk b 0

/-- `Decrypt(RK, C)` (44_decrypt_engine.md R238). -/
def decrypt (rk : RoundKeys) (c : Block) : Block :=
  decFinal rk (List.foldl (decRound rk) (decFirst rk c) [9, 8, 7, 6, 5, 4, 3, 2, 1])

/-- What step DEC(r) makes of DATA (44_decrypt_engine.md R239). -/
def decData (rk : RoundKeys) (b : Block) (r : Round) : Block :=
  if r = 10 then decFirst rk b else if r = 0 then decFinal rk b else decRound rk b r

/-- The control point after DEC(r): DEC(r-1), and IDLE after DEC(0) (44_decrypt_engine.md R239). -/
def decNext (r : Round) : Seq :=
  if r = 0 then .idle else .dec ⟨r.val - 1, by omega⟩

/-- Step DEC(r) of DECRYPT (44_decrypt_engine.md R239). -/
def stepDec (r : Round) (s : State) : State := (s.setData (decData s.rk s.data r)).setSeq (decNext r)

/-- What DECRYPT does when it is accepted: `seq <- DEC(10)` (45_host_commands.md R266). -/
def acceptDecrypt (s : State) : State := s.setSeq (.dec 10)

/-- DECRYPT, the write of 0x03 to CMD (45_host_commands.md R266). -/
def execDecrypt (s : State) : Host.Outcome State Fault Refusal := .next (unlessBusy (requireKey acceptDecrypt) s)

end Sys2Proof.Machine
end

