-- ==== Sys2Proof/Machine/KeyExpander.lean ====
section
/-! DEFINITION. The key expander: RotWord, SubWord, rcon, ExpandKey, the steps KEX(0)..KEX(10), and EXPAND
(42_key_expander.md). -/

namespace Sys2Proof.Machine

/-- `RotWord(a0‖a1‖a2‖a3) = a1‖a2‖a3‖a0` (42_key_expander.md R173). -/
def rotWord (w : Word) : Word := { a0 := w.a1, a1 := w.a2, a2 := w.a3, a3 := w.a0 }

/-- `SubWord`: the forward S-box on each byte, in both directions of the cipher (42_key_expander.md R174, R181). -/
def subWord (w : Word) : Word := { a0 := sboxF w.a0, a1 := sboxF w.a1, a2 := sboxF w.a2, a3 := sboxF w.a3 }

/-- `rcon(r)`: 0x01 at r = 1, doubled from each round to the next (42_key_expander.md R175).
The spec defines it at r = 1..10, and it is read at no other r (log 13). -/
def rcon (r : Nat) : Byte := double^[r - 1] 0x01

/-- `t = SubWord(RotWord(w))` with the round constant xored into its most significant byte only (42_key_expander.md R176). -/
def scheduleCore (rc : Byte) (w : Word) : Word :=
  let t := subWord (rotWord w)
  { t with a0 := t.a0 ^^^ rc }

/-- The words `n[0..3]` of the next round key, from the round constant and the words of the previous one
(42_key_expander.md R176, R177, R179). -/
def nextWords (rc : Byte) (prev : Block) : Fin 4 → Word :=
  let n0 := wordXor (scheduleCore rc (blockWord prev 3)) (blockWord prev 0)
  let n1 := wordXor n0 (blockWord prev 1)
  let n2 := wordXor n1 (blockWord prev 2)
  let n3 := wordXor n2 (blockWord prev 3)
  fun j => match j with
    | 0 => n0
    | 1 => n1
    | 2 => n2
    | 3 => n3

/-- The next round key's bytes, those of `n[0], n[1], n[2], n[3]` (42_key_expander.md R179). -/
def nextRoundKey (rc : Byte) (prev : Block) : Block := blockOfWords (nextWords rc prev)

/-- Round key r of key K: round 0 is K itself, round r + 1 is made from round r and `rcon(r + 1)`
(42_key_expander.md R172, R176, R177). -/
def roundKeyOf (k : Block) : Nat → Block
  | 0 => k
  | r + 1 => nextRoundKey (rcon (r + 1)) (roundKeyOf k r)

/-- `ExpandKey(K)`: the eleven round keys in order (42_key_expander.md R178). -/
def expandKey (k : Block) : RoundKeys :=
  Vector.ofFn fun j => (roundKeyOf k (j.val / 16))[j.val % 16]

/-- Step KEX(0): round key 0 is KEY, RCON starts at 0x01 (42_key_expander.md R179). -/
def stepKex0 (s : State) : State :=
  ((s.setRk (withRoundKey s.rk 0 s.key)).setRcon 0x01).setSeq (.kex 1)

/-- The control effect that ends a KEX(r), r = 1..10: KEX(10) sets KV and goes IDLE, KEX(r) goes on to KEX(r+1)
(42_key_expander.md R179). -/
def kexNext (r : Round) (s : State) : State :=
  if h : r.val < 10 then s.setSeq (.kex ⟨r.val + 1, by omega⟩) else (s.setKv true).setSeq .idle

/-- Step KEX(r), r = 1..10: round key r from round key r-1 and RCON, then RCON doubled (42_key_expander.md R179). -/
def stepKexRound (r : Round) (s : State) : State :=
  let prev := roundKey s.rk ⟨r.val - 1, by omega⟩
  kexNext r ((s.setRk (withRoundKey s.rk r (nextRoundKey s.rcon prev))).setRcon (double s.rcon))

/-- Step KEX(r) of EXPAND (42_key_expander.md R179). -/
def stepKex (r : Round) (s : State) : State :=
  if r = 0 then stepKex0 s else stepKexRound r s

/-- What EXPAND does when it is accepted: `KV <- 0; seq <- KEX(0)` (45_host_commands.md R264). -/
def acceptExpand (s : State) : State := (s.setKv false).setSeq (.kex 0)

/-- EXPAND, the write of 0x01 to CMD (45_host_commands.md R264). -/
def execExpand (s : State) : Host.Outcome State Fault Refusal := .next (unlessBusy acceptExpand s)

end Sys2Proof.Machine
end

