-- ==== Sys2Proof/Machine/Nop.lean ====
section
/-! DEFINITION. NOP (45_host_commands.md R263). -/

namespace Sys2Proof.Machine

/-- NOP, the write of 0x00 to CMD: nothing while BUSY=0, Error(BUSY) while BUSY=1 (45_host_commands.md R263). -/
def execNop (s : State) : Host.Outcome State Fault Refusal := .next (unlessBusy id s)

end Sys2Proof.Machine
end

