-- ==== Sys2Proof/Machine/Bus.lean ====
section
/-! DEFINITION. The host's bus transactions: the write dispatch and the read dispatch (45_host_commands.md R261, R262). -/

namespace Sys2Proof.Machine

/-- A write of a byte to CMD: a command byte runs its command; a reserved byte is Error(BUSY) while BUSY=1, the busy check
coming first, and else Error(ILLEGAL_CMD) (30_encoding.md R102; 45_host_commands.md R261, R267; 60_exceptions.md R305). -/
def writeCmd (v : Byte) (s : State) : Host.Outcome State Fault Refusal :=
  match decode v with
  | .ok i => exec i s
  | .error _ => .next (unlessBusy (raiseError .illegalCmd) s)

/-- A write of a byte to STATUS acts on bit 2 only, also while BUSY=1 (60_exceptions.md R307). -/
def writeStatus (v : Byte) (s : State) : State :=
  if clearsError v then clearError s else s

/-- `MemWrite(off, 1, v)`, the write dispatch (45_host_commands.md R261). -/
def memWrite (off v : Byte) (s : State) : Host.Outcome State Fault Refusal :=
  match windowReg off with
  | .key i => .next (unlessBusy (fun s => s.setKeyByte i v) s)
  | .data i => .next (unlessBusy (fun s => s.setDataByte i v) s)
  | .cmd => writeCmd v s
  | .status => .next (writeStatus v s)
  | .errcode => .next s
  | .rk _ => .next s
  | .reserved => .next s

/-- `seq` is ENC(r) or DEC(r) for some r: the running command writes DATA. -/
def Seq.writesData : Seq → Bool
  | .idle => false
  | .kex _ => false
  | .enc _ => true
  | .dec _ => true

/-- `seq` is KEX(r) for some r: the running command writes RK. -/
def Seq.writesRk : Seq → Bool
  | .idle => false
  | .kex _ => true
  | .enc _ => false
  | .dec _ => false

/-- What the window shows at an offset: a byte, or none where a read is a draw (45_host_commands.md R262). -/
def windowByte (off : Byte) (s : State) : Option Byte :=
  match windowReg off with
  | .key i => some s.key[i]
  | .data i => if s.seq.writesData then none else some s.data[i]
  | .cmd => some 0x00
  | .status => some s.status
  | .errcode => some s.errcode
  | .rk j => if s.seq.writesRk then none else some s.rk[j]
  | .reserved => some 0x00

/-- The byte that a read at an offset returns: what the window shows, or a fresh draw (45_host_commands.md R262; log 4). -/
def readValue (off : Byte) (s : State) : Byte :=
  match windowByte off s with
  | some v => v
  | none => drawnByte s 0

/-- How many draws a read at an offset takes: one where the window shows no byte. -/
def readDraws (off : Byte) (s : State) : Nat :=
  match windowByte off s with
  | some _ => 0
  | none => 1

/-- `MemRead(off, 1)`: it changes no state of the block (45_host_commands.md R262; 20_memory.md R79).
The byte goes to the host, into the environment's log (log 5). -/
def memRead (off : Byte) (s : State) : State :=
  s.setEnv { s.env.drawn (readDraws off s) with readLog := (off, readValue off s) :: s.env.readLog }

end Sys2Proof.Machine
end

