-- ==== Sys2Proof/Machine/Agents.lean ====
section
/-! DEFINITION. The transition system: the sequencer's step, the host's turn, and which agent moves next
(45_host_commands.md R260, R268, R269). -/

namespace Sys2Proof.Machine

/-- `SeqStep`: the step that `seq` names; at IDLE it is not enabled and nothing happens (45_host_commands.md R260, R268). -/
def seqStep (s : State) : State :=
  match s.seq with
  | .idle => s
  | .kex r => stepKex r s
  | .enc r => stepEnc r s
  | .dec r => stepDec r s

/-- The host's remaining operations become `ops`. -/
def State.setHost (s : State) (ops : List HostOp) : State := s.setEnv { s.env with host := ops }

/-- The turns that remain become `ts`. -/
def State.setTurns (s : State) (ts : List Agent) : State := s.setEnv { s.env with turns := ts }

/-- A poll's read is the one its host waits for: `(t & mask) = val` (30_encoding.md R109). -/
def pollDone (mask val t : Byte) : Bool := t &&& mask == val

/-- One turn of the host: its next operation as one bus transaction; a poll stays at the head until its read matches
(30_encoding.md R108, R109; log 12). A host with nothing left does nothing. -/
def hostTurn (s : State) : Host.Outcome State Fault Refusal :=
  match s.env.host with
  | [] => .next s
  | .write off v :: rest => memWrite off v (s.setHost rest)
  | .read off :: rest => .next (memRead off (s.setHost rest))
  | .poll off mask val :: rest =>
    .next (memRead off (if pollDone mask val (readValue off s) then s.setHost rest else s))

/-- Who moves next: the head of `turns`; once they are used up, the sequencer while a command runs (weak fairness,
45_host_commands.md R269) and else the host (log 1). -/
def nextAgent (s : State) : Agent :=
  match s.env.turns with
  | a :: _ => a
  | [] => if s.busy then .sequencer else .host

/-- The state as its next agent finds it: the turn is taken off `turns`. -/
def takeTurn (s : State) : State := s.setTurns s.env.turns.tail

/-- One transition by an agent (45_host_commands.md R260). -/
def agentStep (a : Agent) (s : State) : Host.Outcome State Fault Refusal :=
  match a with
  | .host => hostTurn s
  | .sequencer => .next (seqStep s)
  | .reset => .next (resetEvent s)

/-- The state in which the very next step is the host's write of `v` to CMD (log 2). -/
def withCommandWrite (s : State) (v : Byte) : State :=
  s.setEnv { s.env with host := .write 0x20#8 v :: s.env.host, turns := .host :: s.env.turns }

end Sys2Proof.Machine
end

