-- ==== Sys2Proof/Machine/Step.lean ====
section
/-! DEFINITION. One step of the machine, and the placing of an instruction where the next step runs it. -/

namespace Sys2Proof.Machine

/-- One step: one transition of the agent that moves next (45_host_commands.md R260). -/
def step (s : State) : Host.Outcome State Fault Refusal := agentStep (nextAgent s) (takeTurn s)

/-- The state with the command word `w` placed where the next step runs it: the block fetches nothing (10_state.md R45),
so the host is given the write of that byte to CMD as its next operation and the next turn (log 2). -/
def State.withFetchWord (s : State) (nbits w : Nat) : State := withCommandWrite s (tableByte nbits w)

end Sys2Proof.Machine
end

