-- ==== Sys2Proof/Machine/HostProgram.lean ====
section
/-! DEFINITION. The expansion of host program lines to operations of the host (30_encoding.md R108, R109). -/

namespace Sys2Proof.Machine

/-- Operations `f (base + i) h[i]` for i = 0, 1, … in increasing i. -/
def perByte (f : Byte → Byte → HostOp) : Byte → List Byte → List HostOp
  | _, [] => []
  | off, v :: rest => f off v :: perByte f (off + 1) rest

/-- The offset of byte 0 of round key k, `0x30 + 16k` (20_memory.md R74). -/
def roundKeyOffset (k : Nat) : Byte := BitVec.ofNat 8 (0x30 + 16 * k)

/-- The exact expansion of a host program line (30_encoding.md R108, R109). -/
def lineOps : HostLine → List HostOp
  | .wr off val => [.write off val]
  | .rd off => [.read off]
  | .rdExpect off _ => [.read off]
  | .cmd i => [.write 0x20#8 (encode i)]
  | .poll off mask val => [.poll off mask val]
  | .wait => [.poll 0x21#8 0x01#8 0x00#8]
  | .clrerr => [.write 0x21#8 0x04#8]
  | .ldkey h => perByte .write 0x00#8 h
  | .ldblk h => perByte .write 0x10#8 h
  | .rdblk h => perByte (fun off _ => .read off) 0x10#8 h
  | .rdrk k h => perByte (fun off _ => .read off) (roundKeyOffset k) h

/-- A host program is its lines' operations in order (30_encoding.md R108). -/
def programOps (p : List HostLine) : List HostOp := p.flatMap lineOps

/-- What a line states its reads return, as (offset, byte) in order; the block does not see it (30_encoding.md R108; log 12). -/
def lineExpects : HostLine → List (Byte × Byte)
  | .rdExpect off val => [(off, val)]
  | .rdblk h => h.zipIdx.map fun (v, i) => (BitVec.ofNat 8 (0x10 + i), v)
  | .rdrk k h => h.zipIdx.map fun (v, i) => (roundKeyOffset k + BitVec.ofNat 8 i, v)
  | .wr _ _ => []
  | .rd _ => []
  | .cmd _ => []
  | .poll _ _ _ => []
  | .wait => []
  | .clrerr => []
  | .ldkey _ => []
  | .ldblk _ => []

end Sys2Proof.Machine
end

