-- ==== Sys2Proof/Safety.lean ====
section
/-! DEFINITION. The terms claims use: the invariant every step keeps, a completed step, a frame of the block's registers,
and reset-free turns. -/

namespace Sys2Proof.Machine

/-- The error latch's invariant: ERR=0 if and only if ERRCODE=0x00 (10_state.md R39), and the codes 0x04..0xFF are never
produced (30_encoding.md R107). -/
def ErrorInv (s : State) : Prop := (s.err = false ↔ s.errcode = 0x00) ∧ s.errcode.toNat ≤ 0x03

/-- What a control point says of the other registers: while EXPAND runs KV=0, the round keys built so far are those of KEY,
and RCON is the constant the next step uses (10_state.md R40; 42_key_expander.md R179; 70_reset_and_hazards.md R338);
while ENCRYPT or DECRYPT runs KV=1 (60_exceptions.md R304). -/
def SeqInv (s : State) : Prop :=
  match s.seq with
  | .idle => True
  | .kex r =>
    s.kv = false ∧ (∀ k : Round, k.val < r.val → roundKey s.rk k = roundKeyOf s.key k.val) ∧
      (0 < r.val → s.rcon = rcon r.val)
  | .enc _ => s.kv = true
  | .dec _ => s.kv = true

/-- Whenever KV=1, RK is a complete schedule, the expansion of some key (10_state.md R46, R35). -/
def ScheduleInv (s : State) : Prop := s.kv = true → ∃ k : Block, s.rk = expandKey k

/-- The invariant of the machine: every step keeps it, and it holds after reset. -/
def Inv (s : State) : Prop := ErrorInv s ∧ SeqInv s ∧ ScheduleInv s

/-- A step that goes on to a next state: no fault and no refusal. -/
def Completes (o : Host.Outcome State Fault Refusal) : Prop := ∃ t, o = .next t

/-- The machine goes from `s` to `t` in `n` steps. -/
abbrev Runs (n : Nat) (s t : State) : Prop := Host.Core.run Sys2Proof.core n s = .next t

/-- The two states differ in their environment at most: every register of 10_state.md R31 is the same. -/
def SameBlock (s t : State) : Prop := t = s.setEnv t.env

/-- No reset event is among the turns. -/
def NoReset (turns : List Agent) : Prop := Agent.reset ∉ turns

/-- The agents `turns`, the eleventh sequencer turn last and no reset among them: one whole command and whatever the host
does meanwhile (45_host_commands.md R268, R269). -/
def CommandTurns (turns : List Agent) : Prop :=
  NoReset turns ∧ turns.count .sequencer = 11 ∧ turns.getLast? = some .sequencer

/-- The block's control state is that of reset, whatever KEY, DATA, RK and RCON hold (70_reset_and_hazards.md R330, R333). -/
def ResetControl (s : State) : Prop := s.seq = .idle ∧ s.kv = false ∧ s.err = false ∧ s.errcode = 0x00

end Sys2Proof.Machine
end

