-- ==== Sys2Proof/Certificates/Slice0/Obligations.lean ====
section
/-! DEFINITION. The statements about the AES-128 cipher core, for the provers. Each docstring names the rule of spec/ it
formalises, or says that it is derived. -/

open Sys2Proof Sys2Proof.Machine

/-! ### Encoding and the step -/

/-- 30_encoding.md R101: the opcode map, byte by byte, and each command's first step. -/
def Obligations.OpcodeMapAndFirstSteps : Prop :=
  decode 0b00000000#8 = .ok .nop ∧ decode 0b00000001#8 = .ok .expand ∧
    decode 0b00000010#8 = .ok .encrypt ∧ decode 0b00000011#8 = .ok .decrypt ∧
    (∀ b : Byte, 0x04 ≤ b.toNat → decode b = .error (.reservedOpcode b)) ∧
    ∀ s : State, s.seq = .idle → s.kv = true →
      (∃ t, exec .nop s = .next t ∧ t.seq = .idle) ∧
        (∃ t, exec .expand s = .next t ∧ t.seq = .kex 0) ∧
        (∃ t, exec .encrypt s = .next t ∧ t.seq = .enc 0) ∧
        ∃ t, exec .decrypt s = .next t ∧ t.seq = .dec 10

/-- 30_encoding.md R102, 45_host_commands.md R267, 60_exceptions.md R303: a reserved byte spells no command; written to CMD
it is Error(ILLEGAL_CMD) while BUSY=0 and Error(BUSY) while BUSY=1, and nothing else changes. -/
def Obligations.ReservedOpcodesSpellNoCommand : Prop :=
  ∀ b : Byte, 0x04 ≤ b.toNat →
    (∀ i : Instr, decode b ≠ .ok i) ∧
      ∀ s : State,
        (s.seq = .idle → s.err = false → memWrite 0x20#8 b s = .next { s with err := true, errcode := 0x01 }) ∧
          (s.seq = .idle → s.err = true → memWrite 0x20#8 b s = .next s) ∧
          (s.seq ≠ .idle → s.err = false → memWrite 0x20#8 b s = .next { s with err := true, errcode := 0x02 }) ∧
          (s.seq ≠ .idle → s.err = true → memWrite 0x20#8 b s = .next s)

/-- Derived from 30_encoding.md R100, R101, R105: decode and encode agree both ways, and a command is exactly one byte. -/
def Obligations.DecodeEncodeAgree : Prop :=
  (∀ (i : Instr) (rest : List Byte), i.wf = true → decodeBytes (encode i :: rest) = .ok (i, rest)) ∧
    ∀ (b : Byte) (i : Instr), decode b = .ok i → encode i = b

/-- Derived from 45_host_commands.md R260, R261: when the host moves next and its next operation writes a command's byte to
CMD, the step is exec of that command, at the state with the turn taken and the operation issued. The turns (log 1) and the
host's list of operations (log 2) are the model's choice. -/
def Obligations.StepRunsDecodedCommand : Prop :=
  ∀ (s : State) (b : Byte) (i : Instr) (rest : List HostOp),
    nextAgent s = .host → s.env.host = .write 0x20#8 b :: rest → decode b = .ok i →
      step s = exec i { s with env := { s.env with host := rest, turns := s.env.turns.tail } }

/-- Derived from 45_host_commands.md R261 and the placing of a command (log 2): the very next step runs the placed word. -/
def Obligations.FetchWordRunsDecodedCommand : Prop :=
  ∀ (s : State) (w : Nat) (i : Instr), decodeTableWord 8 w = some i → step (s.withFetchWord 8 w) = exec i s

/-- Derived from 60_exceptions.md R300 and 93_implementation_defined.md, "No behaviour of the block is `stuck` or
`fault`": every step of every state goes on to a next state. -/
def Obligations.EveryStepCompletes : Prop := ∀ s : State, Completes (step s)

/-- Derived from 45_host_commands.md R260 (the turns are the model's choice, log 1; that the host's operations are a list
from which the one issued is taken is the model's choice, log 2): a step is one of the four transitions, SeqStep
only while `seq ≠ IDLE`, or it leaves the block alone; and from any state each of them is what some next turn does. -/
def Obligations.StepIsOneTransition : Prop :=
  (∀ s t : State, step s = .next t →
      ∃ u : State, SameBlock s u ∧
        ((∃ off v, memWrite off v u = .next t) ∨ (∃ off, t = memRead off u) ∨ (s.seq ≠ .idle ∧ t = seqStep u) ∨
          t = resetEvent u ∨ t = u)) ∧
    ∀ (s : State) (off v : Byte),
      step { s with env := { s.env with host := [.write off v], turns := [.host] } } =
          memWrite off v { s with env := { s.env with host := [], turns := [] } } ∧
        step { s with env := { s.env with host := [.read off], turns := [.host] } } =
          .next (memRead off { s with env := { s.env with host := [], turns := [] } }) ∧
        step { s with env := { s.env with turns := [.sequencer] } } =
          .next (seqStep { s with env := { s.env with turns := [] } }) ∧
        step { s with env := { s.env with turns := [.reset] } } =
          .next (resetEvent { s with env := { s.env with turns := [] } })

/-! ### The commands -/

/-- 45_host_commands.md R263: NOP does nothing while BUSY=0 and is Error(BUSY) while BUSY=1. -/
def Obligations.NopDoesNothingWhenIdle : Prop :=
  ∀ s : State, (s.seq = .idle → exec .nop s = .next s) ∧ (s.seq ≠ .idle → exec .nop s = .next (raiseError .busy s))

/-- Derived from 45_host_commands.md R264, R265, R266 (their acceptance): an accepted EXPAND clears KV and starts at KEX(0),
an accepted ENCRYPT starts at ENC(0), an accepted DECRYPT at DEC(10), and nothing else changes. -/
def Obligations.CommandsAreAcceptedWhenIdle : Prop :=
  (∀ s : State, s.seq = .idle → exec .expand s = .next { s with kv := false, seq := .kex 0 }) ∧
    (∀ s : State, s.seq = .idle → s.kv = true → exec .encrypt s = .next { s with seq := .enc 0 }) ∧
    ∀ s : State, s.seq = .idle → s.kv = true → exec .decrypt s = .next { s with seq := .dec 10 }

/-- Derived from 45_host_commands.md R264, R268 and 42_key_expander.md R179 (the turns and the host's operations are the
model's, log 1, log 2): however the host's turns fall between the eleven steps of EXPAND, it ends IDLE with KV=1 and RK
the expansion of KEY, KEY and DATA unchanged. -/
def Obligations.ExpandUnderEveryInterleaving : Prop :=
  ∀ (s : State) (ts more : List Agent), s.seq = .kex 0 → s.env.turns = ts ++ more → CommandTurns ts →
    ∃ t, Runs ts.length s t ∧ t.seq = .idle ∧ t.kv = true ∧ t.rk = expandKey s.key ∧ t.key = s.key ∧
      t.data = s.data ∧ t.env.turns = more

/-- Derived from 45_host_commands.md R265, R268 and 43_encrypt_engine.md R210 (the turns and the host's operations are the
model's, log 1, log 2): however the host's turns fall between the eleven steps of ENCRYPT, DATA ends as Encrypt(RK, DATA),
and KEY, RK, KV, RCON are unchanged. -/
def Obligations.EncryptUnderEveryInterleaving : Prop :=
  ∀ (s : State) (ts more : List Agent), s.seq = .enc 0 → s.env.turns = ts ++ more → CommandTurns ts →
    ∃ t, Runs ts.length s t ∧ t.seq = .idle ∧ t.data = encrypt s.rk s.data ∧ t.key = s.key ∧ t.rk = s.rk ∧
      t.kv = s.kv ∧ t.rcon = s.rcon ∧ t.env.turns = more

/-- Derived from 45_host_commands.md R266, R268 and 44_decrypt_engine.md R239 (the turns and the host's operations are the
model's, log 1, log 2): however the host's turns fall between the eleven steps of DECRYPT, DATA ends as Decrypt(RK, DATA),
and KEY, RK, KV, RCON are unchanged. -/
def Obligations.DecryptUnderEveryInterleaving : Prop :=
  ∀ (s : State) (ts more : List Agent), s.seq = .dec 10 → s.env.turns = ts ++ more → CommandTurns ts →
    ∃ t, Runs ts.length s t ∧ t.seq = .idle ∧ t.data = decrypt s.rk s.data ∧ t.key = s.key ∧ t.rk = s.rk ∧
      t.kv = s.kv ∧ t.rcon = s.rcon ∧ t.env.turns = more

/-- 42_key_expander.md R179: the steps KEX(0)..KEX(10), each with everything it leaves unchanged; RCON at KEX(r) is rcon(r);
after KEX(10) RK is the expansion of KEY. -/
def Obligations.ExpandStepByStep : Prop :=
  (∀ s : State, s.seq = .kex 0 →
      ∃ x : RoundKeys, roundKey x 0 = s.key ∧ (∀ k : Round, k ≠ 0 → roundKey x k = roundKey s.rk k) ∧
        seqStep s = { s with rk := x, rcon := 0x01, seq := .kex 1 }) ∧
    (∀ (s : State) (p r : Round), p.val + 1 = r.val → s.seq = .kex r →
      ∃ (x : RoundKeys) (w n : Fin 4 → Word),
        (∀ j, w j = blockWord (roundKey s.rk p) j) ∧
          n 0 = wordXor { subWord (rotWord (w 3)) with a0 := (subWord (rotWord (w 3))).a0 ^^^ s.rcon } (w 0) ∧
          n 1 = wordXor (n 0) (w 1) ∧ n 2 = wordXor (n 1) (w 2) ∧ n 3 = wordXor (n 2) (w 3) ∧
          (∀ j, blockWord (roundKey x r) j = n j) ∧ (∀ k : Round, k ≠ r → roundKey x k = roundKey s.rk k) ∧
          (∀ q : Round, q.val = r.val + 1 → seqStep s = { s with rk := x, rcon := double s.rcon, seq := .kex q }) ∧
          (r = 10 → seqStep s = { s with rk := x, rcon := double s.rcon, kv := true, seq := .idle })) ∧
    ∀ s : State, s.seq = .kex 0 →
      (∀ r : Round, 1 ≤ r.val → (seqStep^[r.val] s).seq = .kex r ∧ (seqStep^[r.val] s).rcon = rcon r.val) ∧
        ∃ c : Byte, seqStep^[11] s = { s with rk := expandKey s.key, rcon := c, kv := true, seq := .idle }

/-- 43_encrypt_engine.md R210: the steps ENC(0)..ENC(10), each with everything it leaves unchanged; after ENC(10) DATA is
Encrypt(RK, D₀). -/
def Obligations.EncryptStepByStep : Prop :=
  (∀ s : State, s.seq = .enc 0 → seqStep s = { s with data := addRoundKey s.rk s.data 0, seq := .enc 1 }) ∧
    (∀ (s : State) (r q : Round), 1 ≤ r.val → q.val = r.val + 1 → s.seq = .enc r →
      seqStep s =
        { s with data := addRoundKey s.rk (mixColumns (shiftRows (subBytes s.data))) r, seq := .enc q }) ∧
    (∀ s : State, s.seq = .enc 10 →
      seqStep s = { s with data := addRoundKey s.rk (shiftRows (subBytes s.data)) 10, seq := .idle }) ∧
    ∀ s : State, s.seq = .enc 0 → seqStep^[11] s = { s with data := encrypt s.rk s.data, seq := .idle }

/-- 44_decrypt_engine.md R239: the steps DEC(10)..DEC(0), each with everything it leaves unchanged; ROUND reads 10, 9, …, 0
through the command; after DEC(0) DATA is Decrypt(RK, D₀); DATA after DEC(r) is DATA before ENC(r) of the matching
encryption, r = 10..1. -/
def Obligations.DecryptStepByStep : Prop :=
  (∀ s : State, s.seq = .dec 10 →
      seqStep s = { s with data := invSubBytes (invShiftRows (addRoundKey s.rk s.data 10)), seq := .dec 9 }) ∧
    (∀ (s : State) (r q : Round), r.val ≤ 9 → q.val + 1 = r.val → s.seq = .dec r →
      seqStep s =
        { s with data := invSubBytes (invShiftRows (invMixColumns (addRoundKey s.rk s.data r))), seq := .dec q }) ∧
    (∀ s : State, s.seq = .dec 0 → seqStep s = { s with data := addRoundKey s.rk s.data 0, seq := .idle }) ∧
    (∀ s : State, s.seq = .dec 10 →
      (∀ n r : Round, n.val + r.val = 10 →
          (seqStep^[n.val] s).seq = .dec r ∧ ((seqStep^[n.val] s).status >>> 4).toNat = r.val) ∧
        seqStep^[11] s = { s with data := decrypt s.rk s.data, seq := .idle }) ∧
    ∀ (e d : State) (r : Round), e.seq = .enc 0 → d.seq = .dec 10 → d.rk = e.rk → d.data = encrypt e.rk e.data →
      1 ≤ r.val → (seqStep^[11 - r.val] d).data = (seqStep^[r.val] e).data

/-- Derived from 45_host_commands.md R269 and 70_reset_and_hazards.md R341 (weak fairness as log 1 models it): once no turns
are prescribed, a running command is IDLE within eleven steps. -/
def Obligations.RunningCommandEndsWithinElevenSteps : Prop :=
  ∀ s : State, s.seq ≠ .idle → s.env.turns = [] → ∃ n t, n ≤ 11 ∧ Runs n s t ∧ t.seq = .idle

/-- Derived from 70_reset_and_hazards.md R338 (the turns and the draws are the model's, log 1, log 4): from KEX(0) until
the last step, whatever the host does, KV=0, every read of RK is a draw, and a command that needs a schedule is
Error(BUSY). -/
def Obligations.ExpandInvalidatesUntilItsLastStep : Prop :=
  ∀ (s : State) (ts more : List Agent), s.seq = .kex 0 → s.kv = false → s.env.turns = ts ++ more → NoReset ts →
    ts.count .sequencer ≤ 10 →
      ∃ t, Runs ts.length s t ∧ t.kv = false ∧ (∃ r, t.seq = .kex r) ∧
        (∀ j : Fin 176, readValue (BitVec.ofNat 8 (0x30 + j.val)) t = Config.freeByte t.env.draws) ∧
        exec .encrypt t = .next (raiseError .busy t) ∧ exec .decrypt t = .next (raiseError .busy t)

/-- 70_reset_and_hazards.md R337: a KEY write changes neither RK nor KV, and ENCRYPT and DECRYPT after it run on the old
schedule without an error. -/
def Obligations.KeyWriteLeavesStaleSchedule : Prop :=
  ∀ (s : State) (i : Fin 16) (v : Byte),
    (∃ u, memWrite (BitVec.ofNat 8 i.val) v s = .next u ∧ u.rk = s.rk ∧ u.kv = s.kv) ∧
      (s.seq = .idle →
        ∃ u, memWrite (BitVec.ofNat 8 i.val) v s = .next u ∧ u = { s with key := s.key.set i.val v i.isLt } ∧
          (s.kv = true →
            (∃ e, exec .encrypt u = .next e ∧ seqStep^[11] e = { u with data := encrypt s.rk s.data }) ∧
              ∃ d, exec .decrypt u = .next d ∧ seqStep^[11] d = { u with data := decrypt s.rk s.data }))

/-! ### Status, control points and errors -/

/-- 30_encoding.md R106, 10_state.md R41: the fields of STATUS as read, a STATUS write, and STATUS after reset. -/
def Obligations.StatusByteFields : Prop :=
  (∀ s : State,
      (readValue 0x21#8 s).getLsbD 0 = decide (s.seq ≠ .idle) ∧ (readValue 0x21#8 s).getLsbD 1 = s.kv ∧
        (readValue 0x21#8 s).getLsbD 2 = s.err ∧ (readValue 0x21#8 s).getLsbD 3 = false ∧
        (readValue 0x21#8 s >>> 4).toNat = s.seq.round) ∧
    (∀ r : Round, (Seq.kex r).round = r.val ∧ (Seq.enc r).round = r.val ∧ (Seq.dec r).round = r.val) ∧
    Seq.idle.round = 0 ∧ (∀ q : Seq, q.round ≤ 10) ∧
    (∀ (s : State) (v : Byte),
      memWrite 0x21#8 v s = .next (if v.getLsbD 2 = true then { s with err := false, errcode := 0x00 } else s)) ∧
    (∀ s : State, readValue 0x21#8 (resetEvent s) = 0x00) ∧ readValue 0x21#8 State.reset = 0x00

/-- 10_state.md R36: `seq` has 34 values; acceptance sets the first step; each step sets the successor of the same
command, or IDLE after the last; reset sets IDLE. -/
def Obligations.SequencerControlPoints : Prop :=
  (∃ l : List Seq, l.Nodup ∧ l.length = 34 ∧ ∀ q : Seq, q ∈ l) ∧
    (∀ s : State, s.seq = .idle → s.kv = true →
      (∃ t, exec .expand s = .next t ∧ t.seq = .kex 0) ∧ (∃ t, exec .encrypt s = .next t ∧ t.seq = .enc 0) ∧
        ∃ t, exec .decrypt s = .next t ∧ t.seq = .dec 10) ∧
    (∀ (s : State) (r q : Round), q.val = r.val + 1 →
      (s.seq = .kex r → (seqStep s).seq = .kex q) ∧ (s.seq = .enc r → (seqStep s).seq = .enc q) ∧
        (s.seq = .dec q → (seqStep s).seq = .dec r)) ∧
    (∀ s : State, s.seq = .kex 10 ∨ s.seq = .enc 10 ∨ s.seq = .dec 0 → (seqStep s).seq = .idle) ∧
    (∀ s : State, (resetEvent s).seq = .idle) ∧ State.reset.seq = .idle

/-- 60_exceptions.md R301: an error report latches its code when ERR was 0 and changes nothing when ERR was 1; the latch is
cleared by nothing but a STATUS write with bit 2 set and reset. -/
def Obligations.ErrorLatchIsStickyFirstWins : Prop :=
  (∀ (c : ErrorCause) (s : State), s.err = false → raiseError c s = { s with err := true, errcode := c.code }) ∧
    (∀ (c : ErrorCause) (s : State), s.err = true → raiseError c s = s) ∧
    ErrorCause.illegalCmd.code = 0x01 ∧ ErrorCause.busy.code = 0x02 ∧ ErrorCause.noKey.code = 0x03 ∧
    (∀ s : State, s.err = true →
      (∀ (off v : Byte) (t : State), memWrite off v s = .next t → off ≠ 0x21#8 ∨ v.getLsbD 2 = false →
          t.err = true ∧ t.errcode = s.errcode) ∧
        (∀ off : Byte, (memRead off s).err = true ∧ (memRead off s).errcode = s.errcode) ∧
        (seqStep s).err = true ∧ (seqStep s).errcode = s.errcode) ∧
    (∀ (s : State) (v : Byte), v.getLsbD 2 = true →
      memWrite 0x21#8 v s = .next { s with err := false, errcode := 0x00 }) ∧
    ∀ s : State, (resetEvent s).err = false ∧ (resetEvent s).errcode = 0x00

/-- Derived from 70_reset_and_hazards.md R339 (runs as log 1 and log 2 model them): as long as no reset comes and the host
writes no CLRERR, the first error's code stays. -/
def Obligations.FirstErrorCodeStaysUntilCleared : Prop :=
  ∀ (n : Nat) (s t : State), s.err = true → NoReset s.env.turns →
    (∀ v : Byte, HostOp.write 0x21#8 v ∈ s.env.host → v.getLsbD 2 = false) → Runs n s t →
      t.err = true ∧ t.errcode = s.errcode

/-- 60_exceptions.md R302: while BUSY=1 a write to KEY, DATA or CMD is dropped with Error(BUSY); a STATUS write is no
error. -/
def Obligations.BusyDropsWrites : Prop :=
  ∀ (s : State) (off v : Byte), s.seq ≠ .idle →
    (off.toNat ≤ 0x20 → s.err = false → memWrite off v s = .next { s with err := true, errcode := 0x02 }) ∧
      (off.toNat ≤ 0x20 → s.err = true → memWrite off v s = .next s) ∧
      (off = 0x21#8 → v.getLsbD 2 = false → memWrite off v s = .next s)

/-- 60_exceptions.md R305 and, for the NO_KEY case, R304: BUSY before ILLEGAL_CMD before NO_KEY; a write elsewhere than CMD
meets no condition but BUSY; after reset ENCRYPT sets ERRCODE to 0x03. -/
def Obligations.ErrorPriority : Prop :=
  (∀ (s : State) (v : Byte),
      (s.seq ≠ .idle → memWrite 0x20#8 v s = .next (raiseError .busy s)) ∧
        (s.seq = .idle → 0x04 ≤ v.toNat → memWrite 0x20#8 v s = .next (raiseError .illegalCmd s)) ∧
        (s.seq = .idle → s.kv = false → v = 0x02 ∨ v = 0x03 → memWrite 0x20#8 v s = .next (raiseError .noKey s))) ∧
    (∀ (s t : State) (off v : Byte), s.seq = .idle → off ≠ 0x20#8 → off ≠ 0x21#8 → memWrite off v s = .next t →
      t.err = s.err ∧ t.errcode = s.errcode) ∧
    (∀ s : State, s.seq = .idle → s.kv = false →
      exec .encrypt s = .next (raiseError .noKey s) ∧ exec .decrypt s = .next (raiseError .noKey s)) ∧
    ∀ s : State, ResetControl s →
      ∃ t, exec .encrypt s = .next t ∧ t = { s with err := true, errcode := 0x03 } ∧ readValue 0x21#8 t = 0x04

/-- 60_exceptions.md R307: a STATUS write with bit 2 set clears ERR and ERRCODE, also while BUSY=1; with bit 2 clear it
changes nothing; no read clears anything; the next error is recorded afresh. -/
def Obligations.StatusWriteClearsError : Prop :=
  ∀ (s : State) (v : Byte),
    (v.getLsbD 2 = true →
        memWrite 0x21#8 v s = .next { s with err := false, errcode := 0x00 } ∧
          ∀ c : ErrorCause, (raiseError c { s with err := false, errcode := 0x00 }).errcode = c.code) ∧
      (v.getLsbD 2 = false → memWrite 0x21#8 v s = .next s) ∧ SameBlock s (memRead 0x21#8 s) ∧ SameBlock s (memRead 0x22#8 s)

/-- 60_exceptions.md R308: what is not an error. -/
def Obligations.LegalAccessesRaiseNoError : Prop :=
  (∀ (s : State) (off : Byte), SameBlock s (memRead off s)) ∧
    (∀ (s : State) (off v : Byte), 0x22 ≤ off.toNat → memWrite off v s = .next s) ∧
    (∀ (s : State) (v : Byte), v.getLsbD 2 = false → memWrite 0x21#8 v s = .next s) ∧
    (∀ s : State, s.seq = .idle → exec .nop s = .next s) ∧
    (∀ s : State, s.seq = .idle → s.kv = false → exec .expand s = .next { s with kv := false, seq := .kex 0 }) ∧
    (∀ (s : State) (k : Block), s.seq = .idle → s.kv = true →
      exec .encrypt { s with key := k } = .next { s with key := k, seq := .enc 0 } ∧
        exec .decrypt { s with key := k } = .next { s with key := k, seq := .dec 10 }) ∧
    ∀ (s : State) (b : Block), s.seq = .idle → s.kv = true →
      ∃ t, exec .decrypt { s with data := b } = .next t ∧ t.err = s.err ∧ t.errcode = s.errcode ∧
        (seqStep^[11] t).data = decrypt s.rk b ∧ (seqStep^[11] t).err = s.err ∧ (seqStep^[11] t).errcode = s.errcode

/-! ### The register window -/

/-- 45_host_commands.md R261: the write dispatch, region by region. -/
def Obligations.WriteDispatch : Prop :=
  ∀ (s : State) (off v : Byte),
    (off.toNat ≤ 0x20 → s.seq ≠ .idle → memWrite off v s = .next (raiseError .busy s)) ∧
      (∀ i : Fin 16, off.toNat = i.val → s.seq = .idle →
        memWrite off v s = .next { s with key := s.key.set i.val v i.isLt }) ∧
      (∀ i : Fin 16, off.toNat = 0x10 + i.val → s.seq = .idle →
        memWrite off v s = .next { s with data := s.data.set i.val v i.isLt }) ∧
      (off = 0x20#8 → s.seq = .idle →
        (v = 0x00 → memWrite off v s = .next s) ∧
          (v = 0x01 → memWrite off v s = .next { s with kv := false, seq := .kex 0 }) ∧
          (v = 0x02 → s.kv = false → memWrite off v s = .next (raiseError .noKey s)) ∧
          (v = 0x02 → s.kv = true → memWrite off v s = .next { s with seq := .enc 0 }) ∧
          (v = 0x03 → s.kv = false → memWrite off v s = .next (raiseError .noKey s)) ∧
          (v = 0x03 → s.kv = true → memWrite off v s = .next { s with seq := .dec 10 }) ∧
          (0x04 ≤ v.toNat → memWrite off v s = .next (raiseError .illegalCmd s))) ∧
      (off = 0x21#8 →
        memWrite off v s = .next (if v.getLsbD 2 = true then { s with err := false, errcode := 0x00 } else s)) ∧
      (0x22 ≤ off.toNat → memWrite off v s = .next s)

/-- 45_host_commands.md R262: the read dispatch, region by region, with the draws; a read changes no register. A drawn byte
is the free byte the draw counter gives, the model's choice (log 4); that a read's offset and byte go to the head of the
environment's log is the model's choice (log 5). -/
def Obligations.ReadDispatch : Prop :=
  ∀ s : State,
    (∀ i : Fin 16, readValue (BitVec.ofNat 8 i.val) s = s.key[i]) ∧
      (∀ i : Fin 16,
        (∃ r, s.seq = .enc r ∨ s.seq = .dec r) →
          readValue (BitVec.ofNat 8 (0x10 + i.val)) s = Config.freeByte s.env.draws ∧
            (memRead (BitVec.ofNat 8 (0x10 + i.val)) s).env.draws = s.env.draws + 1) ∧
      (∀ i : Fin 16, (∀ r, s.seq ≠ .enc r ∧ s.seq ≠ .dec r) →
        readValue (BitVec.ofNat 8 (0x10 + i.val)) s = s.data[i]) ∧
      readValue 0x20#8 s = 0x00 ∧
      readValue 0x21#8 s =
        BitVec.ofNat 8 s.seq.round <<< 4 ||| flagByte s.err <<< 2 ||| flagByte s.kv <<< 1 ||| flagByte s.busy ∧
      readValue 0x22#8 s = s.errcode ∧
      (∀ j : Fin 176, (∃ r, s.seq = .kex r) →
        readValue (BitVec.ofNat 8 (0x30 + j.val)) s = Config.freeByte s.env.draws ∧
          (memRead (BitVec.ofNat 8 (0x30 + j.val)) s).env.draws = s.env.draws + 1) ∧
      (∀ j : Fin 176, (∀ r, s.seq ≠ .kex r) → readValue (BitVec.ofNat 8 (0x30 + j.val)) s = s.rk[j]) ∧
      (∀ off : Byte, 0x23 ≤ off.toNat ∧ off.toNat ≤ 0x2F ∨ 0xE0 ≤ off.toNat → readValue off s = 0x00) ∧
      ∀ off : Byte, SameBlock s (memRead off s) ∧ (memRead off s).env.readLog = (off, readValue off s) :: s.env.readLog

/-- 20_memory.md R74: byte i of the key at 0x00+i, byte i of the block at 0x10+i, byte i of round key k at 0x30+16k+i. -/
def Obligations.WindowByteOrder : Prop :=
  (∀ (s : State) (i : Fin 16), s.seq = .idle →
      readValue (BitVec.ofNat 8 (0x00 + i.val)) s = s.key[i] ∧ readValue (BitVec.ofNat 8 (0x10 + i.val)) s = s.data[i] ∧
        ∀ k : Round, readValue (BitVec.ofNat 8 (0x30 + 16 * k.val + i.val)) s = (roundKey s.rk k)[i]) ∧
    ∀ (s : State) (i : Fin 16) (v : Byte), s.seq = .idle →
      memWrite (BitVec.ofNat 8 (0x00 + i.val)) v s = .next { s with key := s.key.set i.val v i.isLt } ∧
        memWrite (BitVec.ofNat 8 (0x10 + i.val)) v s = .next { s with data := s.data.set i.val v i.isLt }

/-- 20_memory.md R72: reserved offsets read 0x00 and ignore writes; writes to RK, to ERRCODE and to the bits of STATUS other
than bit 2 are ignored; none of them is an error. -/
def Obligations.ReservedOffsetsAreIgnored : Prop :=
  (∀ (s : State) (off v : Byte), 0x23 ≤ off.toNat ∧ off.toNat ≤ 0x2F ∨ 0xE0 ≤ off.toNat →
      readValue off s = 0x00 ∧ memWrite off v s = .next s) ∧
    (∀ (s : State) (j : Fin 176) (v : Byte), memWrite (BitVec.ofNat 8 (0x30 + j.val)) v s = .next s) ∧
    (∀ (s : State) (v : Byte), memWrite 0x22#8 v s = .next s) ∧
    ∀ (s : State) (v : Byte), memWrite 0x21#8 v s = memWrite 0x21#8 (v &&& 0x04) s ∧ memWrite 0x21#8 (v &&& 0xFB) s = .next s

/-- Derived from 45_host_commands.md R261, R262: a byte the host writes to KEY or DATA reads back, and every other offset
reads as before. -/
def Obligations.HostWriteReadsBack : Prop :=
  ∀ (s : State) (off v : Byte), s.seq = .idle → off.toNat < 0x20 →
    ∃ t, memWrite off v s = .next t ∧ readValue off t = v ∧ ∀ a : Byte, a ≠ off → readValue a t = readValue a s

/-- Derived from 20_memory.md R84: a step that reaches IDLE was KEX(10), ENC(10) or DEC(0); it leaves BUSY=0 and its results
readable at once. -/
def Obligations.LastStepMakesResultsReadable : Prop :=
  ∀ s : State, s.seq ≠ .idle → (seqStep s).seq = .idle →
    (s.seq = .kex 10 ∧ (seqStep s).kv = true ∨ s.seq = .enc 10 ∧ (seqStep s).data = encFinal s.rk s.data ∨
        s.seq = .dec 0 ∧ (seqStep s).data = decFinal s.rk s.data) ∧
      (readValue 0x21#8 (seqStep s)).getLsbD 0 = false ∧
      (∀ i : Fin 16, readValue (BitVec.ofNat 8 (0x10 + i.val)) (seqStep s) = (seqStep s).data[i]) ∧
      ∀ j : Fin 176, readValue (BitVec.ofNat 8 (0x30 + j.val)) (seqStep s) = (seqStep s).rk[j]

/-! ### What steps and the host leave unchanged -/

/-- 10_state.md R47, 43_encrypt_engine.md R211, 44_decrypt_engine.md R242, 60_exceptions.md R309: no step writes KEY or
raises an error; no step of ENCRYPT or DECRYPT writes RK, and it reads RK only at its own round key. -/
def Obligations.StepsMutateNoKeyAndRaiseNoError : Prop :=
  (∀ s : State, (seqStep s).key = s.key ∧ (seqStep s).err = s.err ∧ (seqStep s).errcode = s.errcode) ∧
    (∀ (s : State) (r : Round), s.seq = .enc r ∨ s.seq = .dec r → (seqStep s).rk = s.rk ∧ (seqStep s).kv = s.kv) ∧
    ∀ (s t : State) (r : Round),
      s.seq = .enc r ∧ t.seq = .enc r ∨ s.seq = .dec r ∧ t.seq = .dec r →
        s.data = t.data → roundKey s.rk r = roundKey t.rk r → (seqStep s).data = (seqStep t).data

/-- Derived from 10_state.md R48: while a command runs a host write changes nothing but the error latch, a host read
nothing, and the host never writes RK. That a write leaves the environment alone and a read changes nothing else is said
of the model's own environment (log 2, log 5). -/
def Obligations.CommandOperandsFrozen : Prop :=
  (∀ (s t : State) (off v : Byte), s.seq ≠ .idle → memWrite off v s = .next t →
      t = { s with err := t.err, errcode := t.errcode }) ∧
    (∀ (s : State) (off : Byte), SameBlock s (memRead off s)) ∧
    ∀ (s t : State) (off v : Byte), memWrite off v s = .next t → t.rk = s.rk ∧ t.rcon = s.rcon ∧ t.env = s.env

/-- Derived from 70_reset_and_hazards.md R332: an IDLE block starts a step only by an accepted EXPAND, ENCRYPT or DECRYPT
that the host writes to CMD. Which agent moves next (log 1) and the host's list of operations (log 2) are the model's
choice. -/
def Obligations.IdleEndsOnlyByAcceptedCommand : Prop :=
  ∀ s t : State, s.seq = .idle → step s = .next t → t.seq ≠ .idle →
    nextAgent s = .host ∧
      ∃ (b : Byte) (rest : List HostOp), s.env.host = .write 0x20#8 b :: rest ∧
        (decode b = .ok .expand ∧ t.seq = .kex 0 ∨ decode b = .ok .encrypt ∧ s.kv = true ∧ t.seq = .enc 0 ∨
          decode b = .ok .decrypt ∧ s.kv = true ∧ t.seq = .dec 10)

/-! ### The Galois-field multiplier and the S-box -/

/-- 40_gf_multiplier.md R131: doubling with the shifted-out bit dropped, its corner cases and its examples. -/
def Obligations.DoubleIsTruncatedShift : Prop :=
  (∀ x : Byte, (double x).toNat = (2 * x.toNat) % 256 ^^^ (if x.getLsbD 7 = true then 0x1B else 0x00)) ∧
    double 0x00 = 0x00 ∧ double 0x80 = 0x1B ∧ double 0xFF = 0xE5 ∧ double 0x8D = 0x01 ∧ double 0x57 = 0xAE ∧
    double 0xAE = 0x47

/-- 40_gf_multiplier.md R138: each product is the product in GF(2^8) modulo 0x11B, and the direct product by repeated
doubling. -/
def Obligations.ProductsAreFieldProducts : Prop :=
  ∀ x : Byte,
    (mul2 x = gfProduct x 2 ∧ mul3 x = gfProduct x 3 ∧ mul9 x = gfProduct x 9 ∧ mul11 x = gfProduct x 11 ∧
        mul13 x = gfProduct x 13 ∧ mul14 x = gfProduct x 14) ∧
      mul2 x = repeatedDoubling x 2 ∧ mul3 x = repeatedDoubling x 3 ∧ mul9 x = repeatedDoubling x 9 ∧
        mul11 x = repeatedDoubling x 11 ∧ mul13 x = repeatedDoubling x 13 ∧ mul14 x = repeatedDoubling x 14

/-- 40_gf_multiplier.md R139: linearity, zero, one, injectivity and the sums. -/
def Obligations.ProductLaws : Prop :=
  (∀ a b : Byte, double (a ^^^ b) = double a ^^^ double b) ∧
    (∀ p ∈ [(mul2, 2), (mul3, 3), (mul9, 9), (mul11, 11), (mul13, 13), ((mul14, 14) : (Byte → Byte) × Byte)],
      (∀ a b : Byte, p.1 (a ^^^ b) = p.1 a ^^^ p.1 b) ∧ p.1 0x00 = 0x00 ∧ p.1 0x01 = p.2 ∧ Function.Bijective p.1) ∧
    ∀ x : Byte,
      mul3 x = mul2 x ^^^ x ∧ mul9 x ^^^ mul11 x = mul2 x ∧ mul13 x ^^^ mul9 x = double (double x) ∧
        mul14 x ^^^ mul13 x = mul3 x

/-- 41_sbox_rom.md R153: both tables are permutations and each is the other's inverse. -/
def Obligations.SboxTablesAreInversePermutations : Prop :=
  Function.Bijective sboxF ∧ Function.Bijective sboxI ∧ ∀ x : Byte, sboxI (sboxF x) = x ∧ sboxF (sboxI x) = x

/-- Derived from 41_sbox_rom.md R154: at every byte the forward table is the affine map of an inverse in GF(2^8), 0x00 taking
the place of its own inverse. -/
def Obligations.SboxIsAffineOfFieldInverse : Prop :=
  sboxF 0x00 = sboxAffine 0x00 ∧ ∀ x : Byte, x ≠ 0x00 → ∃ y : Byte, gfProduct x y = 0x01 ∧ sboxF x = sboxAffine y

/-! ### The key expander -/

/-- 42_key_expander.md R173, R174, R175: RotWord, SubWord and the ten round constants. -/
def Obligations.RotWordSubWordAndRcon : Prop :=
  (∀ a0 a1 a2 a3 : Byte,
      rotWord ⟨a0, a1, a2, a3⟩ = ⟨a1, a2, a3, a0⟩ ∧ subWord ⟨a0, a1, a2, a3⟩ = ⟨sboxF a0, sboxF a1, sboxF a2, sboxF a3⟩) ∧
    (∀ a : Byte, rotWord ⟨a, a, a, a⟩ = ⟨a, a, a, a⟩) ∧ rotWord (hexWord 0x0c0d0e0f) = hexWord 0x0d0e0f0c ∧
    subWord (hexWord 0x00000000) = hexWord 0x63636363 ∧ subWord (hexWord 0x0d0e0f0c) = hexWord 0xd7ab76fe ∧
    rcon 1 = 0x01 ∧ (∀ r : Nat, 1 ≤ r → r ≤ 9 → rcon (r + 1) = double (rcon r)) ∧
    [rcon 1, rcon 2, rcon 3, rcon 4, rcon 5, rcon 6, rcon 7, rcon 8, rcon 9, rcon 10] =
      [0x01, 0x02, 0x04, 0x08, 0x10, 0x20, 0x40, 0x80, 0x1B, 0x36]

/-- 42_key_expander.md R172, R176, R177: the words of ExpandKey(K) satisfy the recurrence of the key schedule, with the
rules' corner case and examples. -/
def Obligations.KeyScheduleRecurrence : Prop :=
  (∀ k : Block,
      roundKey (expandKey k) 0 = k ∧
        (∀ (j : Fin 4) (n : Fin 44), n.val = j.val → scheduleWord (expandKey k) n = blockWord k j) ∧
        (∀ (r : Nat) (n m p : Fin 44), 1 ≤ r → n.val = 4 * r → m.val + 1 = n.val → p.val + 4 = n.val →
          ∃ t : Word, t = subWord (rotWord (scheduleWord (expandKey k) m)) ∧
            scheduleWord (expandKey k) n = wordXor { t with a0 := t.a0 ^^^ rcon r } (scheduleWord (expandKey k) p)) ∧
        ∀ n m p : Fin 44, n.val % 4 ≠ 0 → m.val + 1 = n.val → p.val + 4 = n.val →
          scheduleWord (expandKey k) n = wordXor (scheduleWord (expandKey k) m) (scheduleWord (expandKey k) p)) ∧
    subWord (rotWord (hexWord 0x00000000)) = hexWord 0x63636363 ∧
    roundKey (expandKey (hexBlock 0x000102030405060708090a0b0c0d0e0f)) 1 = hexBlock 0xd6aa74fdd2af72fadaa678f1d6ab76fe

/-! ### The round engines -/

/-- 43_encrypt_engine.md R201, R202: SubBytes lane by lane, ShiftRows row by row and as the table P, with the corner cases
and examples. -/
def Obligations.SubBytesAndShiftRows : Prop :=
  (∀ (b : Block) (i : Fin 16), (subBytes b)[i] = sboxF b[i]) ∧ Function.Bijective subBytes ∧
    subBytes (hexBlock 0x00000000000000000000000000000000) = hexBlock 0x63636363636363636363636363636363 ∧
    subBytes (hexBlock 0x000102030405060708090a0b0c0d0e0f) = hexBlock 0x637c777bf26b6fc53001672bfed7ab76 ∧
    (∀ (b : Block) (r c d : Fin 4), d.val = (c.val + r.val) % 4 → blockAt (shiftRows b) r c = blockAt b r d) ∧
    (∀ b : Block, (shiftRows b).toList =
      [b[0], b[5], b[10], b[15], b[4], b[9], b[14], b[3], b[8], b[13], b[2], b[7], b[12], b[1], b[6], b[11]]) ∧
    (∀ b : Block, (∀ r c d : Fin 4, blockAt b r c = blockAt b r d) → shiftRows b = b) ∧
    (∀ b : Block, shiftRows^[4] b = b) ∧
    shiftRows (hexBlock 0x000102030405060708090a0b0c0d0e0f) = hexBlock 0x00050a0f04090e03080d02070c01060b

/-- 43_encrypt_engine.md R203, R204: the MixColumn equations on each column, with the corner cases, linearity and
examples. -/
def Obligations.MixColumnsEquations : Prop :=
  (∀ a0 a1 a2 a3 : Byte, mixColumn ⟨a0, a1, a2, a3⟩ =
      ⟨mul2 a0 ^^^ mul3 a1 ^^^ a2 ^^^ a3, a0 ^^^ mul2 a1 ^^^ mul3 a2 ^^^ a3, a0 ^^^ a1 ^^^ mul2 a2 ^^^ mul3 a3,
        mul3 a0 ^^^ a1 ^^^ a2 ^^^ mul2 a3⟩) ∧
    (∀ v : Byte, mixColumn ⟨v, v, v, v⟩ = ⟨v, v, v, v⟩) ∧ mixColumn (hexWord 0x80000000) = hexWord 0x1b80809b ∧
    mixColumn (hexWord 0xdb135345) = hexWord 0x8e4da1bc ∧
    (∀ (b : Block) (c : Fin 4), blockWord (mixColumns b) c = mixColumn (blockWord b c)) ∧
    (∀ a b : Block, mixColumns (blockXor a b) = blockXor (mixColumns a) (mixColumns b)) ∧
    mixColumns (hexBlock 0x6353e08c0960e104cd70b751bacad0e7) = hexBlock 0x5f72641557f5bc92f7be3b291db9f91a

/-- 43_encrypt_engine.md R205: AddRoundKey byte by byte, with its corner cases and example. -/
def Obligations.AddRoundKeyXorsRoundKey : Prop :=
  (∀ (rk : RoundKeys) (b : Block) (k : Round) (i : Fin 16) (j : Fin 176), j.val = 16 * k.val + i.val →
      (addRoundKey rk b k)[i] = b[i] ^^^ rk[j]) ∧
    (∀ (rk : RoundKeys) (b : Block) (k : Round), addRoundKey rk (addRoundKey rk b k) k = b) ∧
    (∀ (rk : RoundKeys) (b : Block) (k : Round), roundKey rk k = Vector.replicate 16 0x00 → addRoundKey rk b k = b) ∧
    (∀ (rk : RoundKeys) (k : Round), addRoundKey rk (roundKey rk k) k = Vector.replicate 16 0x00) ∧
    addRoundKey (expandKey (hexBlock 0x000102030405060708090a0b0c0d0e0f)) (hexBlock 0x00112233445566778899aabbccddeeff) 0 =
      hexBlock 0x00102030405060708090a0b0c0d0e0f0

/-- 44_decrypt_engine.md R231, R232: InvSubBytes lane by lane, InvShiftRows row by row and as the table Q, with the corner
cases and examples. -/
def Obligations.InvSubBytesAndInvShiftRows : Prop :=
  (∀ (b : Block) (i : Fin 16), (invSubBytes b)[i] = sboxI b[i]) ∧ (∀ b : Block, invSubBytes (subBytes b) = b) ∧
    invSubBytes (hexBlock 0x63636363636363636363636363636363) = hexBlock 0x00000000000000000000000000000000 ∧
    invSubBytes (hexBlock 0x000102030405060708090a0b0c0d0e0f) = hexBlock 0x52096ad53036a538bf40a39e81f3d7fb ∧
    (∀ (b : Block) (r c d : Fin 4), c.val = (d.val + r.val) % 4 → blockAt (invShiftRows b) r c = blockAt b r d) ∧
    (∀ b : Block, (invShiftRows b).toList =
      [b[0], b[13], b[10], b[7], b[4], b[1], b[14], b[11], b[8], b[5], b[2], b[15], b[12], b[9], b[6], b[3]]) ∧
    (∀ b : Block, (∀ r c d : Fin 4, blockAt b r c = blockAt b r d) → invShiftRows b = b) ∧
    (∀ b : Block, invShiftRows (shiftRows b) = b ∧ shiftRows (invShiftRows b) = b) ∧
    invShiftRows (hexBlock 0x000102030405060708090a0b0c0d0e0f) = hexBlock 0x000d0a0704010e0b0805020f0c090603

/-- 44_decrypt_engine.md R233, R234: the InvMixColumn equations on each column, with the corner cases, the inversion of
MixColumns and examples. -/
def Obligations.InvMixColumnsEquations : Prop :=
  (∀ a0 a1 a2 a3 : Byte, invMixColumn ⟨a0, a1, a2, a3⟩ =
      ⟨mul14 a0 ^^^ mul11 a1 ^^^ mul13 a2 ^^^ mul9 a3, mul9 a0 ^^^ mul14 a1 ^^^ mul11 a2 ^^^ mul13 a3,
        mul13 a0 ^^^ mul9 a1 ^^^ mul14 a2 ^^^ mul11 a3, mul11 a0 ^^^ mul13 a1 ^^^ mul9 a2 ^^^ mul14 a3⟩) ∧
    (∀ w : Word, invMixColumn (mixColumn w) = w) ∧
    (∀ v : Byte, invMixColumn ⟨v, v, v, v⟩ = ⟨v, v, v, v⟩) ∧ invMixColumn (hexWord 0x80000000) = hexWord 0x41ecdaf7 ∧
    invMixColumn (hexWord 0x8e4da1bc) = hexWord 0xdb135345 ∧
    (∀ (b : Block) (c : Fin 4), blockWord (invMixColumns b) c = invMixColumn (blockWord b c)) ∧
    (∀ b : Block, invMixColumns (mixColumns b) = b) ∧
    invMixColumns (hexBlock 0x5f72641557f5bc92f7be3b291db9f91a) = hexBlock 0x6353e08c0960e104cd70b751bacad0e7

/-- 44_decrypt_engine.md R240, R236: the inverse pairs, and each decrypt round undoes the encrypt round of its index. -/
def Obligations.InversePairs : Prop :=
  (∀ b : Block, invSubBytes (subBytes b) = b ∧ invShiftRows (shiftRows b) = b ∧ invMixColumns (mixColumns b) = b) ∧
    (∀ (rk : RoundKeys) (b : Block) (k : Round), addRoundKey rk (addRoundKey rk b k) k = b) ∧
    (∀ (rk : RoundKeys) (b : Block) (r : Round), decRound rk b r = invSubBytes (invShiftRows (invMixColumns (addRoundKey rk b r)))) ∧
    (∀ (rk : RoundKeys) (b : Block) (r : Round), 1 ≤ r.val → r.val ≤ 9 → decRound rk (encRound rk b r) r = b) ∧
    (∀ (rk : RoundKeys) (b : Block), decFirst rk (encFinal rk b) = b) ∧
    decRound (expandKey (hexBlock 0x000102030405060708090a0b0c0d0e0f)) (hexBlock 0x89d810e8855ace682d1843d8cb128fe4) 1 =
      hexBlock 0x00102030405060708090a0b0c0d0e0f0

/-- 44_decrypt_engine.md R241: InvSubBytes and InvShiftRows commute; AddRoundKey and InvMixColumns do not. -/
def Obligations.InverseStepsThatCommute : Prop :=
  (∀ b : Block, invSubBytes (invShiftRows b) = invShiftRows (invSubBytes b)) ∧
    ∃ (rk : RoundKeys) (b : Block), invMixColumns (addRoundKey rk b 1) ≠ addRoundKey rk (invMixColumns b) 1

/-- 43_encrypt_engine.md R206, R207, R208 and 44_decrypt_engine.md R235: the rounds of the two engines from their primitives,
with the rules' examples under the source's key. -/
def Obligations.RoundsFromPrimitives : Prop :=
  (∀ (rk : RoundKeys) (b : Block),
      encInit rk b = addRoundKey rk b 0 ∧ encFinal rk b = addRoundKey rk (shiftRows (subBytes b)) 10 ∧
        decFirst rk b = invSubBytes (invShiftRows (addRoundKey rk b 10)) ∧ decFinal rk b = addRoundKey rk b 0 ∧
        ∀ r : Round, encRound rk b r = addRoundKey rk (mixColumns (shiftRows (subBytes b))) r) ∧
    ∀ rk : RoundKeys, rk = expandKey (hexBlock 0x000102030405060708090a0b0c0d0e0f) →
      encInit rk (hexBlock 0x00112233445566778899aabbccddeeff) = hexBlock 0x00102030405060708090a0b0c0d0e0f0 ∧
        encRound rk (hexBlock 0x00102030405060708090a0b0c0d0e0f0) 1 = hexBlock 0x89d810e8855ace682d1843d8cb128fe4 ∧
        encFinal rk (hexBlock 0xbd6e7c3df2b5779e0b61216e8b10b689) = hexBlock 0x69c4e0d86a7b0430d8cdb78070b4c55a ∧
        decFirst rk (hexBlock 0x69c4e0d86a7b0430d8cdb78070b4c55a) = hexBlock 0xbd6e7c3df2b5779e0b61216e8b10b689

/-- 43_encrypt_engine.md R209: Encrypt is the whitening, the nine rounds and the final round, and gives the
source's known answer. -/
def Obligations.EncryptIsItsRounds : Prop :=
  (∀ (rk : RoundKeys) (p : Block), ∃ b : Round → Block,
      b 0 = addRoundKey rk p 0 ∧
        (∀ q r : Round, q.val + 1 = r.val → r.val ≤ 9 →
          b r = addRoundKey rk (mixColumns (shiftRows (subBytes (b q)))) r) ∧
        encrypt rk p = addRoundKey rk (shiftRows (subBytes (b 9))) 10) ∧
    encrypt (expandKey (hexBlock 0x000102030405060708090a0b0c0d0e0f)) (hexBlock 0x00112233445566778899aabbccddeeff) =
      hexBlock 0x69c4e0d86a7b0430d8cdb78070b4c55a

/-- Derived from 44_decrypt_engine.md R238 and, for encrypting what was decrypted, 45_host_commands.md R265, R266: Decrypt
is the first round, the nine rounds and the final whitening, and it undoes Encrypt under every schedule, an expanded key's
among them; the source's known answer decrypts. -/
def Obligations.DecryptUndoesEncrypt : Prop :=
  (∀ (rk : RoundKeys) (c : Block), ∃ b : Round → Block,
      b 10 = invSubBytes (invShiftRows (addRoundKey rk c 10)) ∧
        (∀ q r : Round, r.val + 1 = q.val → 1 ≤ r.val →
          b r = invSubBytes (invShiftRows (invMixColumns (addRoundKey rk (b q) r)))) ∧
        decrypt rk c = addRoundKey rk (b 1) 0) ∧
    (∀ k p : Block, decrypt (expandKey k) (encrypt (expandKey k) p) = p) ∧
    (∀ (rk : RoundKeys) (p : Block), decrypt rk (encrypt rk p) = p ∧ encrypt rk (decrypt rk p) = p) ∧
    decrypt (expandKey (hexBlock 0x000102030405060708090a0b0c0d0e0f)) (hexBlock 0x69c4e0d86a7b0430d8cdb78070b4c55a) =
      hexBlock 0x00112233445566778899aabbccddeeff

/-! ### Invariants and reset -/

/-- Derived from 10_state.md R39, R40, R46, 30_encoding.md R107 and 70_reset_and_hazards.md R338: every step, of any
agent, keeps the machine's invariant. -/
def Obligations.StepKeepsInvariant : Prop := ∀ s t : State, Inv s → step s = .next t → Inv t

/-- Derived from 10_state.md R39, R46 and 70_reset_and_hazards.md R330: the invariant holds after reset, whatever the stores
hold. -/
def Obligations.ResetSatisfiesInvariant : Prop :=
  Inv State.reset ∧ (∀ s : State, Inv (resetEvent s)) ∧ ∀ s : State, ResetControl s → Inv s

/-- Derived from 70_reset_and_hazards.md R330, R331: reset sets the control state and gives every byte of KEY, DATA, RK
and RCON a fresh draw of its own (the numbering of the draws is the model's choice, log 4); it aborts a running command,
and the block takes transactions at once. That the environment keeps all but the draw counter is the model's inference
(log 11), and which agent moves next is its choice (log 1). -/
def Obligations.ResetEventDrawsTheStores : Prop :=
  ∀ s : State,
    ResetControl (resetEvent s) ∧
      (∀ i : Fin 16, (resetEvent s).key[i] = Config.freeByte (s.env.draws + i.val) ∧
        (resetEvent s).data[i] = Config.freeByte (s.env.draws + (16 + i.val))) ∧
      (∀ j : Fin 176, (resetEvent s).rk[j] = Config.freeByte (s.env.draws + (32 + j.val))) ∧
      (resetEvent s).rcon = Config.freeByte (s.env.draws + 208) ∧
      (resetEvent s).env = { s.env with draws := s.env.draws + 209 } ∧
      seqStep (resetEvent s) = resetEvent s ∧
      exec .encrypt (resetEvent s) = .next { resetEvent s with err := true, errcode := 0x03 } ∧
      exec .expand (resetEvent s) = .next { resetEvent s with seq := .kex 0 } ∧
      (nextAgent s = .reset → ∃ t, step s = .next t ∧ ResetControl t)

/-- 70_reset_and_hazards.md R333: the initial control state is exactly seq = IDLE, KV = 0, ERR = 0, ERRCODE = 0x00. -/
def Obligations.ResetSetsControlState : Prop :=
  State.reset.seq = .idle ∧ State.reset.kv = false ∧ State.reset.err = false ∧ State.reset.errcode = 0x00 ∧
    ∀ s : State, (resetEvent s).seq = .idle ∧ (resetEvent s).kv = false ∧ (resetEvent s).err = false ∧
      (resetEvent s).errcode = 0x00

/-! ### The host's operations -/

/-- Derived from 30_encoding.md R109: the exact expansions of the pseudo-instructions, and POLL's loop. The loop is the
model's choice in its form: a poll is one operation (log 12) at the head of the host's list (log 2), and what it reads enters
the environment's log (log 5). -/
def Obligations.PseudoInstructionExpansions : Prop :=
  lineOps (.cmd .nop) = [.write 0x20#8 0x00#8] ∧ lineOps (.cmd .expand) = [.write 0x20#8 0x01#8] ∧
    lineOps (.cmd .encrypt) = [.write 0x20#8 0x02#8] ∧ lineOps (.cmd .decrypt) = [.write 0x20#8 0x03#8] ∧
    lineOps .wait = lineOps (.poll 0x21#8 0x01#8 0x00#8) ∧ lineOps .clrerr = [.write 0x21#8 0x04#8] ∧
    (∀ h : Block,
      lineOps (.ldkey h.toList) = List.ofFn (fun i : Fin 16 => .write (BitVec.ofNat 8 (0x00 + i.val)) h[i]) ∧
        lineOps (.ldblk h.toList) = List.ofFn (fun i : Fin 16 => .write (BitVec.ofNat 8 (0x10 + i.val)) h[i]) ∧
        lineOps (.rdblk h.toList) = List.ofFn (fun i : Fin 16 => .read (BitVec.ofNat 8 (0x10 + i.val))) ∧
        lineExpects (.rdblk h.toList) = List.ofFn (fun i : Fin 16 => (BitVec.ofNat 8 (0x10 + i.val), h[i])) ∧
        ∀ k : Round,
          lineOps (.rdrk k.val h.toList) =
              List.ofFn (fun i : Fin 16 => .read (BitVec.ofNat 8 (0x30 + 16 * k.val + i.val))) ∧
            lineExpects (.rdrk k.val h.toList) =
              List.ofFn (fun i : Fin 16 => (BitVec.ofNat 8 (0x30 + 16 * k.val + i.val), h[i]))) ∧
    ∀ (s : State) (off mask val : Byte) (rest : List HostOp),
      s.env.host = lineOps (.poll off mask val) ++ rest →
        ∃ t, hostTurn s = .next t ∧ t.env.readLog = (off, readValue off s) :: s.env.readLog ∧
          (readValue off s &&& mask = val → t.env.host = rest) ∧
          (readValue off s &&& mask ≠ val → t.env.host = s.env.host)

/-- Derived from 45_host_commands.md R270, R273 (the turns, the host's list and the poll of WAIT are the model's choice,
log 1, log 2, log 12): the host sequence of `expand_key(K)` ends,
however its turns interleave with the sequencer's, with RK the expansion of K and readable, and no error. -/
def Obligations.ExpandKeyHostSequence : Prop :=
  ∀ (s : State) (k : Block), s.seq = .idle → NoReset s.env.turns →
    s.env.host = programOps [.ldkey k.toList, .cmd .expand, .wait] →
      ∃ n t, Runs n s t ∧ t.env.host = [] ∧ t.seq = .idle ∧ t.kv = true ∧ t.key = k ∧ t.rk = expandKey k ∧
        t.data = s.data ∧ t.err = s.err ∧ t.errcode = s.errcode ∧
        ∀ (r : Round) (i : Fin 16), readValue (BitVec.ofNat 8 (0x30 + 16 * r.val + i.val)) t = (roundKeyOf k r.val)[i]

/-- Derived from 45_host_commands.md R270, R273 (the turns, the host's list, the log of its reads and the poll of WAIT are
the model's choice, log 1, log 2, log 5, log 12): the host sequence of `encrypt_block` reads
back Encrypt(RK, P), however its turns interleave with the sequencer's, and leaves KEY, RK, KV and the error latch alone. -/
def Obligations.EncryptBlockHostSequence : Prop :=
  ∀ (s : State) (p : Block), s.seq = .idle → s.kv = true → NoReset s.env.turns →
    s.env.host = programOps [.ldblk p.toList, .cmd .encrypt, .wait, .rdblk (encrypt s.rk p).toList] →
      ∃ n t polls, Runs n s t ∧ t.env.host = [] ∧ t.seq = .idle ∧ t.data = encrypt s.rk p ∧
        t.env.readLog = (lineExpects (.rdblk (encrypt s.rk p).toList)).reverse ++ polls ++ s.env.readLog ∧
        (∀ e ∈ polls, e.1 = 0x21#8) ∧
        t.key = s.key ∧ t.rk = s.rk ∧ t.kv = true ∧ t.err = s.err ∧ t.errcode = s.errcode

/-- Derived from 45_host_commands.md R270, R273 (the turns, the host's list, the log of its reads and the poll of WAIT are
the model's choice, log 1, log 2, log 5, log 12): the host sequence of `decrypt_block` reads
back Decrypt(RK, C), however its turns interleave with the sequencer's, and leaves KEY, RK, KV and the error latch alone. -/
def Obligations.DecryptBlockHostSequence : Prop :=
  ∀ (s : State) (c : Block), s.seq = .idle → s.kv = true → NoReset s.env.turns →
    s.env.host = programOps [.ldblk c.toList, .cmd .decrypt, .wait, .rdblk (decrypt s.rk c).toList] →
      ∃ n t polls, Runs n s t ∧ t.env.host = [] ∧ t.seq = .idle ∧ t.data = decrypt s.rk c ∧
        t.env.readLog = (lineExpects (.rdblk (decrypt s.rk c).toList)).reverse ++ polls ++ s.env.readLog ∧
        (∀ e ∈ polls, e.1 = 0x21#8) ∧
        t.key = s.key ∧ t.rk = s.rk ∧ t.kv = true ∧ t.err = s.err ∧ t.errcode = s.errcode
end

