-- ==== Sys2Proof/Laws/Operands.lean ====
section
/-! SUPPORT. The operand forms read byte by byte: words, blocks, round keys and the register map. -/

namespace Sys2Proof.Machine

theorem blockXor_getElem (a b : Block) (i : Nat) (h : i < 16) : (blockXor a b)[i] = a[i] ^^^ b[i] := by
  simp [blockXor]

theorem roundKey_getElem (rk : RoundKeys) (k : Round) (i : Nat) (h : i < 16) :
    (roundKey rk k)[i] = rk[16 * k.val + i] := by
  simp [roundKey]

/-- Word j of a block of words is the j-th word. -/
theorem blockWord_blockOfWords (w : Fin 4 → Word) (j : Fin 4) : blockWord (blockOfWords w) j = w j := by
  fin_cases j <;> simp [blockWord, blockOfWords, wordByte]

/-- A block is made of its own words. -/
theorem blockOfWords_blockWord (b : Block) : blockOfWords (fun j => blockWord b j) = b := by
  apply Vector.ext
  intro i h
  interval_cases i <;> simp [blockOfWords, blockWord, wordByte]

/-- Row r and column c of a block given as a matrix. -/
theorem blockAt_blockOfMatrix (f : Fin 4 → Fin 4 → Byte) (r c : Fin 4) : blockAt (blockOfMatrix f) r c = f r c := by
  fin_cases r <;> fin_cases c <;> simp [blockAt, blockOfMatrix]

theorem withRoundKey_getElem (rk : RoundKeys) (k : Round) (b : Block) (j : Nat) (h : j < 176) :
    (withRoundKey rk k b)[j] = if j / 16 = k.val then b[j % 16] else rk[j] := by
  simp [withRoundKey]

/-- The round key just written. -/
@[simp] theorem roundKey_withRoundKey_same (rk : RoundKeys) (k : Round) (b : Block) :
    roundKey (withRoundKey rk k b) k = b := by
  apply Vector.ext
  intro i h
  have hq : (16 * k.val + i) / 16 = k.val := by omega
  have hm : (16 * k.val + i) % 16 = i := by omega
  simp [roundKey_getElem, withRoundKey_getElem, hq, hm]

/-- A round key that was not written. -/
theorem roundKey_withRoundKey_other (rk : RoundKeys) {k l : Round} (b : Block) (hne : l ≠ k) :
    roundKey (withRoundKey rk k b) l = roundKey rk l := by
  apply Vector.ext
  intro i h
  have hv : l.val ≠ k.val := fun e => hne (Fin.ext e)
  have hq : (16 * l.val + i) / 16 ≠ k.val := by omega
  simp [roundKey_getElem, withRoundKey_getElem, hq]

/-- A schedule is its eleven round keys. -/
theorem roundKeys_ext {x y : RoundKeys} (h : ∀ k : Round, roundKey x k = roundKey y k) : x = y := by
  apply Vector.ext
  intro j hj
  have e := congrArg (fun b : Block => b[j % 16]) (h ⟨j / 16, by omega⟩)
  have hidx : 16 * (j / 16) + j % 16 = j := by omega
  simpa [roundKey_getElem, hidx] using e

/-- Round key k of an expanded key. -/
@[simp] theorem roundKey_expandKey (key : Block) (k : Round) : roundKey (expandKey key) k = roundKeyOf key k.val := by
  apply Vector.ext
  intro i h
  have hq : (16 * k.val + i) / 16 = k.val := by omega
  have hm : (16 * k.val + i) % 16 = i := by omega
  simp [roundKey_getElem, expandKey, hq, hm]

theorem windowReg_key (i : Fin 16) : windowReg (BitVec.ofNat 8 i.val) = .key i := by
  revert i; decide

theorem windowReg_data (i : Fin 16) : windowReg (BitVec.ofNat 8 (0x10 + i.val)) = .data i := by
  revert i; decide

theorem windowReg_rk (j : Fin 176) : windowReg (BitVec.ofNat 8 (0x30 + j.val)) = .rk j := by
  revert j; decide +kernel

@[simp] theorem windowReg_cmd : windowReg 0x20#8 = .cmd := by decide

@[simp] theorem windowReg_status : windowReg 0x21#8 = .status := by decide

@[simp] theorem windowReg_errcode : windowReg 0x22#8 = .errcode := by decide

/-- The offsets the write dispatch ignores: ERRCODE, RK and the reserved ones. -/
theorem windowReg_ignored (off : Byte) (h : 0x22 ≤ off.toNat) :
    windowReg off = .errcode ∨ (∃ j, windowReg off = .rk j) ∨ windowReg off = .reserved := by
  unfold windowReg
  dsimp only
  split_ifs <;> first | omega | simp

/-- Only offset 0x20 is CMD. -/
theorem windowReg_cmd_iff (off : Byte) : windowReg off = .cmd ↔ off = 0x20#8 := by
  revert off; decide +kernel

/-- Only offset 0x21 is STATUS. -/
theorem windowReg_status_iff (off : Byte) : windowReg off = .status ↔ off = 0x21#8 := by
  revert off; decide +kernel

theorem windowReg_reserved (off : Byte) (h : 0x23 ≤ off.toNat ∧ off.toNat ≤ 0x2F ∨ 0xE0 ≤ off.toNat) :
    windowReg off = .reserved := by
  revert off; decide +kernel

/-- The offset of a platform address in the window (20_memory.md R70). -/
theorem windowOffset_windowAddress (off : Byte) : windowOffset (windowAddress off) = some off := by
  have h := off.isLt
  simp [windowOffset, windowAddress, h]

end Sys2Proof.Machine
end

