-- ==== Sys2Proof/Laws/State.lean ====
section
/-! SUPPORT. One lemma per field per setter: what each setter of Machine/Ops.lean leaves in each field of State.
No later proof unfolds a record update. -/

namespace Sys2Proof.Machine

@[simp] theorem State.setKeyByte_key (s : State) (i : Fin 16) (v : Byte) : (s.setKeyByte i v).key = s.key.set i.val v := rfl
@[simp] theorem State.setKeyByte_data (s : State) (i : Fin 16) (v : Byte) : (s.setKeyByte i v).data = s.data := rfl
@[simp] theorem State.setKeyByte_rk (s : State) (i : Fin 16) (v : Byte) : (s.setKeyByte i v).rk = s.rk := rfl
@[simp] theorem State.setKeyByte_kv (s : State) (i : Fin 16) (v : Byte) : (s.setKeyByte i v).kv = s.kv := rfl
@[simp] theorem State.setKeyByte_seq (s : State) (i : Fin 16) (v : Byte) : (s.setKeyByte i v).seq = s.seq := rfl
@[simp] theorem State.setKeyByte_err (s : State) (i : Fin 16) (v : Byte) : (s.setKeyByte i v).err = s.err := rfl
@[simp] theorem State.setKeyByte_errcode (s : State) (i : Fin 16) (v : Byte) : (s.setKeyByte i v).errcode = s.errcode := rfl
@[simp] theorem State.setKeyByte_rcon (s : State) (i : Fin 16) (v : Byte) : (s.setKeyByte i v).rcon = s.rcon := rfl
@[simp] theorem State.setKeyByte_env (s : State) (i : Fin 16) (v : Byte) : (s.setKeyByte i v).env = s.env := rfl

@[simp] theorem State.setDataByte_key (s : State) (i : Fin 16) (v : Byte) : (s.setDataByte i v).key = s.key := rfl
@[simp] theorem State.setDataByte_data (s : State) (i : Fin 16) (v : Byte) : (s.setDataByte i v).data = s.data.set i.val v := rfl
@[simp] theorem State.setDataByte_rk (s : State) (i : Fin 16) (v : Byte) : (s.setDataByte i v).rk = s.rk := rfl
@[simp] theorem State.setDataByte_kv (s : State) (i : Fin 16) (v : Byte) : (s.setDataByte i v).kv = s.kv := rfl
@[simp] theorem State.setDataByte_seq (s : State) (i : Fin 16) (v : Byte) : (s.setDataByte i v).seq = s.seq := rfl
@[simp] theorem State.setDataByte_err (s : State) (i : Fin 16) (v : Byte) : (s.setDataByte i v).err = s.err := rfl
@[simp] theorem State.setDataByte_errcode (s : State) (i : Fin 16) (v : Byte) : (s.setDataByte i v).errcode = s.errcode := rfl
@[simp] theorem State.setDataByte_rcon (s : State) (i : Fin 16) (v : Byte) : (s.setDataByte i v).rcon = s.rcon := rfl
@[simp] theorem State.setDataByte_env (s : State) (i : Fin 16) (v : Byte) : (s.setDataByte i v).env = s.env := rfl

@[simp] theorem State.setKey_key (s : State) (b : Block) : (s.setKey b).key = b := rfl
@[simp] theorem State.setKey_data (s : State) (b : Block) : (s.setKey b).data = s.data := rfl
@[simp] theorem State.setKey_rk (s : State) (b : Block) : (s.setKey b).rk = s.rk := rfl
@[simp] theorem State.setKey_kv (s : State) (b : Block) : (s.setKey b).kv = s.kv := rfl
@[simp] theorem State.setKey_seq (s : State) (b : Block) : (s.setKey b).seq = s.seq := rfl
@[simp] theorem State.setKey_err (s : State) (b : Block) : (s.setKey b).err = s.err := rfl
@[simp] theorem State.setKey_errcode (s : State) (b : Block) : (s.setKey b).errcode = s.errcode := rfl
@[simp] theorem State.setKey_rcon (s : State) (b : Block) : (s.setKey b).rcon = s.rcon := rfl
@[simp] theorem State.setKey_env (s : State) (b : Block) : (s.setKey b).env = s.env := rfl

@[simp] theorem State.setData_key (s : State) (b : Block) : (s.setData b).key = s.key := rfl
@[simp] theorem State.setData_data (s : State) (b : Block) : (s.setData b).data = b := rfl
@[simp] theorem State.setData_rk (s : State) (b : Block) : (s.setData b).rk = s.rk := rfl
@[simp] theorem State.setData_kv (s : State) (b : Block) : (s.setData b).kv = s.kv := rfl
@[simp] theorem State.setData_seq (s : State) (b : Block) : (s.setData b).seq = s.seq := rfl
@[simp] theorem State.setData_err (s : State) (b : Block) : (s.setData b).err = s.err := rfl
@[simp] theorem State.setData_errcode (s : State) (b : Block) : (s.setData b).errcode = s.errcode := rfl
@[simp] theorem State.setData_rcon (s : State) (b : Block) : (s.setData b).rcon = s.rcon := rfl
@[simp] theorem State.setData_env (s : State) (b : Block) : (s.setData b).env = s.env := rfl

@[simp] theorem State.setRk_key (s : State) (x : RoundKeys) : (s.setRk x).key = s.key := rfl
@[simp] theorem State.setRk_data (s : State) (x : RoundKeys) : (s.setRk x).data = s.data := rfl
@[simp] theorem State.setRk_rk (s : State) (x : RoundKeys) : (s.setRk x).rk = x := rfl
@[simp] theorem State.setRk_kv (s : State) (x : RoundKeys) : (s.setRk x).kv = s.kv := rfl
@[simp] theorem State.setRk_seq (s : State) (x : RoundKeys) : (s.setRk x).seq = s.seq := rfl
@[simp] theorem State.setRk_err (s : State) (x : RoundKeys) : (s.setRk x).err = s.err := rfl
@[simp] theorem State.setRk_errcode (s : State) (x : RoundKeys) : (s.setRk x).errcode = s.errcode := rfl
@[simp] theorem State.setRk_rcon (s : State) (x : RoundKeys) : (s.setRk x).rcon = s.rcon := rfl
@[simp] theorem State.setRk_env (s : State) (x : RoundKeys) : (s.setRk x).env = s.env := rfl

@[simp] theorem State.setKv_key (s : State) (v : Bool) : (s.setKv v).key = s.key := rfl
@[simp] theorem State.setKv_data (s : State) (v : Bool) : (s.setKv v).data = s.data := rfl
@[simp] theorem State.setKv_rk (s : State) (v : Bool) : (s.setKv v).rk = s.rk := rfl
@[simp] theorem State.setKv_kv (s : State) (v : Bool) : (s.setKv v).kv = v := rfl
@[simp] theorem State.setKv_seq (s : State) (v : Bool) : (s.setKv v).seq = s.seq := rfl
@[simp] theorem State.setKv_err (s : State) (v : Bool) : (s.setKv v).err = s.err := rfl
@[simp] theorem State.setKv_errcode (s : State) (v : Bool) : (s.setKv v).errcode = s.errcode := rfl
@[simp] theorem State.setKv_rcon (s : State) (v : Bool) : (s.setKv v).rcon = s.rcon := rfl
@[simp] theorem State.setKv_env (s : State) (v : Bool) : (s.setKv v).env = s.env := rfl

@[simp] theorem State.setSeq_key (s : State) (q : Seq) : (s.setSeq q).key = s.key := rfl
@[simp] theorem State.setSeq_data (s : State) (q : Seq) : (s.setSeq q).data = s.data := rfl
@[simp] theorem State.setSeq_rk (s : State) (q : Seq) : (s.setSeq q).rk = s.rk := rfl
@[simp] theorem State.setSeq_kv (s : State) (q : Seq) : (s.setSeq q).kv = s.kv := rfl
@[simp] theorem State.setSeq_seq (s : State) (q : Seq) : (s.setSeq q).seq = q := rfl
@[simp] theorem State.setSeq_err (s : State) (q : Seq) : (s.setSeq q).err = s.err := rfl
@[simp] theorem State.setSeq_errcode (s : State) (q : Seq) : (s.setSeq q).errcode = s.errcode := rfl
@[simp] theorem State.setSeq_rcon (s : State) (q : Seq) : (s.setSeq q).rcon = s.rcon := rfl
@[simp] theorem State.setSeq_env (s : State) (q : Seq) : (s.setSeq q).env = s.env := rfl

@[simp] theorem State.setError_key (s : State) (e : Bool) (c : Byte) : (s.setError e c).key = s.key := rfl
@[simp] theorem State.setError_data (s : State) (e : Bool) (c : Byte) : (s.setError e c).data = s.data := rfl
@[simp] theorem State.setError_rk (s : State) (e : Bool) (c : Byte) : (s.setError e c).rk = s.rk := rfl
@[simp] theorem State.setError_kv (s : State) (e : Bool) (c : Byte) : (s.setError e c).kv = s.kv := rfl
@[simp] theorem State.setError_seq (s : State) (e : Bool) (c : Byte) : (s.setError e c).seq = s.seq := rfl
@[simp] theorem State.setError_err (s : State) (e : Bool) (c : Byte) : (s.setError e c).err = e := rfl
@[simp] theorem State.setError_errcode (s : State) (e : Bool) (c : Byte) : (s.setError e c).errcode = c := rfl
@[simp] theorem State.setError_rcon (s : State) (e : Bool) (c : Byte) : (s.setError e c).rcon = s.rcon := rfl
@[simp] theorem State.setError_env (s : State) (e : Bool) (c : Byte) : (s.setError e c).env = s.env := rfl

@[simp] theorem State.setRcon_key (s : State) (v : Byte) : (s.setRcon v).key = s.key := rfl
@[simp] theorem State.setRcon_data (s : State) (v : Byte) : (s.setRcon v).data = s.data := rfl
@[simp] theorem State.setRcon_rk (s : State) (v : Byte) : (s.setRcon v).rk = s.rk := rfl
@[simp] theorem State.setRcon_kv (s : State) (v : Byte) : (s.setRcon v).kv = s.kv := rfl
@[simp] theorem State.setRcon_seq (s : State) (v : Byte) : (s.setRcon v).seq = s.seq := rfl
@[simp] theorem State.setRcon_err (s : State) (v : Byte) : (s.setRcon v).err = s.err := rfl
@[simp] theorem State.setRcon_errcode (s : State) (v : Byte) : (s.setRcon v).errcode = s.errcode := rfl
@[simp] theorem State.setRcon_rcon (s : State) (v : Byte) : (s.setRcon v).rcon = v := rfl
@[simp] theorem State.setRcon_env (s : State) (v : Byte) : (s.setRcon v).env = s.env := rfl

@[simp] theorem State.setEnv_key (s : State) (e : Env) : (s.setEnv e).key = s.key := rfl
@[simp] theorem State.setEnv_data (s : State) (e : Env) : (s.setEnv e).data = s.data := rfl
@[simp] theorem State.setEnv_rk (s : State) (e : Env) : (s.setEnv e).rk = s.rk := rfl
@[simp] theorem State.setEnv_kv (s : State) (e : Env) : (s.setEnv e).kv = s.kv := rfl
@[simp] theorem State.setEnv_seq (s : State) (e : Env) : (s.setEnv e).seq = s.seq := rfl
@[simp] theorem State.setEnv_err (s : State) (e : Env) : (s.setEnv e).err = s.err := rfl
@[simp] theorem State.setEnv_errcode (s : State) (e : Env) : (s.setEnv e).errcode = s.errcode := rfl
@[simp] theorem State.setEnv_rcon (s : State) (e : Env) : (s.setEnv e).rcon = s.rcon := rfl
@[simp] theorem State.setEnv_env (s : State) (e : Env) : (s.setEnv e).env = e := rfl

/-- A state is rebuilt from its own environment. -/
@[simp] theorem State.setEnv_self (s : State) : s.setEnv s.env = s := rfl

/-- The last change of the environment wins. -/
@[simp] theorem State.setEnv_setEnv (s : State) (d e : Env) : (s.setEnv d).setEnv e = s.setEnv e := rfl

end Sys2Proof.Machine
end

