-- ==== Sys2Proof/Laws/Ops.lean ====
section
/-! SUPPORT. What each shared operation can do: the error report, the checks of a write, the draws, the commands, and the
transactions. -/

namespace Sys2Proof.Machine

theorem raiseError_first (c : ErrorCause) {s : State} (h : s.err = false) :
    raiseError c s = s.setError true c.code := by simp [raiseError, h]

theorem raiseError_later (c : ErrorCause) {s : State} (h : s.err = true) : raiseError c s = s := by
  simp [raiseError, h]

/-- An error report changes the error latch only. -/
theorem raiseError_frame (c : ErrorCause) (s : State) :
    raiseError c s = s.setError (raiseError c s).err (raiseError c s).errcode := by
  unfold raiseError; split <;> rfl

@[simp] theorem raiseError_key (c : ErrorCause) (s : State) : (raiseError c s).key = s.key := by
  rw [raiseError_frame]; rfl

@[simp] theorem raiseError_data (c : ErrorCause) (s : State) : (raiseError c s).data = s.data := by
  rw [raiseError_frame]; rfl

@[simp] theorem raiseError_rk (c : ErrorCause) (s : State) : (raiseError c s).rk = s.rk := by
  rw [raiseError_frame]; rfl

@[simp] theorem raiseError_kv (c : ErrorCause) (s : State) : (raiseError c s).kv = s.kv := by
  rw [raiseError_frame]; rfl

@[simp] theorem raiseError_seq (c : ErrorCause) (s : State) : (raiseError c s).seq = s.seq := by
  rw [raiseError_frame]; rfl

@[simp] theorem raiseError_rcon (c : ErrorCause) (s : State) : (raiseError c s).rcon = s.rcon := by
  rw [raiseError_frame]; rfl

@[simp] theorem raiseError_env (c : ErrorCause) (s : State) : (raiseError c s).env = s.env := by
  rw [raiseError_frame]; rfl

/-- ERR is 1 after an error report, whether or not it was before. -/
@[simp] theorem raiseError_err (c : ErrorCause) (s : State) : (raiseError c s).err = true := by
  cases h : s.err
  · simp [raiseError_first c h]
  · simp [raiseError_later c h, h]

theorem busy_iff (s : State) : s.busy = true ↔ s.seq ≠ .idle := by
  simp [State.busy]

theorem not_busy_iff (s : State) : s.busy = false ↔ s.seq = .idle := by
  simp [State.busy]

theorem unlessBusy_idle (act : State → State) {s : State} (h : s.seq = .idle) : unlessBusy act s = act s := by
  simp [unlessBusy, (not_busy_iff s).mpr h]

theorem unlessBusy_busy (act : State → State) {s : State} (h : s.busy = true) :
    unlessBusy act s = raiseError .busy s := by
  simp [unlessBusy, h]

theorem requireKey_valid (act : State → State) {s : State} (h : s.kv = true) : requireKey act s = act s := by
  simp [requireKey, h]

theorem requireKey_invalid (act : State → State) {s : State} (h : s.kv = false) :
    requireKey act s = raiseError .noKey s := by
  simp [requireKey, h]

theorem exec_nop (s : State) : exec .nop s = .next (unlessBusy id s) := rfl

theorem exec_expand (s : State) : exec .expand s = .next (unlessBusy acceptExpand s) := rfl

theorem exec_encrypt (s : State) : exec .encrypt s = .next (unlessBusy (requireKey acceptEncrypt) s) := rfl

theorem exec_decrypt (s : State) : exec .decrypt s = .next (unlessBusy (requireKey acceptDecrypt) s) := rfl

/-- While BUSY=1 every command write is Error(BUSY). -/
theorem exec_busy (i : Instr) {s : State} (h : s.busy = true) : exec i s = .next (raiseError .busy s) := by
  cases i <;> simp [exec_nop, exec_expand, exec_encrypt, exec_decrypt, unlessBusy_busy _ h]

/-- What a command write can do: Error(BUSY), nothing, Error(NO_KEY), or its acceptance. -/
theorem exec_cases {i : Instr} {s t : State} (h : exec i s = .next t) :
    (s.busy = true ∧ t = raiseError .busy s) ∨
      (s.seq = .idle ∧
        ((i = .nop ∧ t = s) ∨ (i = .expand ∧ t = acceptExpand s) ∨
          ((i = .encrypt ∨ i = .decrypt) ∧ s.kv = false ∧ t = raiseError .noKey s) ∨
          (i = .encrypt ∧ s.kv = true ∧ t = acceptEncrypt s) ∨
          (i = .decrypt ∧ s.kv = true ∧ t = acceptDecrypt s))) := by
  cases hb : s.busy
  · have hi := (not_busy_iff s).mp hb
    refine .inr ⟨hi, ?_⟩
    cases i
    · rw [exec_nop, unlessBusy_idle _ hi] at h; cases h; simp
    · rw [exec_expand, unlessBusy_idle _ hi] at h; cases h; simp
    · rw [exec_encrypt, unlessBusy_idle _ hi] at h
      cases hk : s.kv
      · rw [requireKey_invalid _ hk] at h; cases h; simp
      · rw [requireKey_valid _ hk] at h; cases h; simp
    · rw [exec_decrypt, unlessBusy_idle _ hi] at h
      cases hk : s.kv
      · rw [requireKey_invalid _ hk] at h; cases h; simp
      · rw [requireKey_valid _ hk] at h; cases h; simp
  · rw [exec_busy i hb] at h; cases h; simp

theorem memWrite_key (i : Fin 16) (v : Byte) (s : State) :
    memWrite (BitVec.ofNat 8 i.val) v s = .next (unlessBusy (fun s => s.setKeyByte i v) s) := by
  simp [memWrite, windowReg_key]

theorem memWrite_data (i : Fin 16) (v : Byte) (s : State) :
    memWrite (BitVec.ofNat 8 (0x10 + i.val)) v s = .next (unlessBusy (fun s => s.setDataByte i v) s) := by
  simp [memWrite, windowReg_data]

theorem memWrite_cmd (v : Byte) (s : State) : memWrite 0x20#8 v s = writeCmd v s := by
  simp [memWrite]

theorem memWrite_status (v : Byte) (s : State) : memWrite 0x21#8 v s = .next (writeStatus v s) := by
  simp [memWrite]

/-- Writes to ERRCODE, RK and the reserved offsets are ignored. -/
theorem memWrite_ignored (off v : Byte) (s : State) (h : 0x22 ≤ off.toNat) : memWrite off v s = .next s := by
  rcases windowReg_ignored off h with hw | ⟨_, hw⟩ | hw <;> simp [memWrite, hw]

theorem writeCmd_command {v : Byte} {i : Instr} (h : decode v = .ok i) (s : State) : writeCmd v s = exec i s := by
  simp [writeCmd, h]

theorem writeCmd_reserved {v : Byte} {r : Reject} (h : decode v = .error r) (s : State) :
    writeCmd v s = .next (unlessBusy (raiseError .illegalCmd) s) := by
  simp [writeCmd, h]

theorem readValue_key (i : Fin 16) (s : State) : readValue (BitVec.ofNat 8 i.val) s = s.key[i] := by
  simp [readValue, windowByte, windowReg_key]

theorem readValue_data (i : Fin 16) {s : State} (h : s.seq.writesData = false) :
    readValue (BitVec.ofNat 8 (0x10 + i.val)) s = s.data[i] := by
  simp [readValue, windowByte, windowReg_data, h]

theorem readValue_rk (j : Fin 176) {s : State} (h : s.seq.writesRk = false) :
    readValue (BitVec.ofNat 8 (0x30 + j.val)) s = s.rk[j] := by
  simp [readValue, windowByte, windowReg_rk, h]

theorem readValue_status (s : State) : readValue 0x21#8 s = s.status := by
  simp [readValue, windowByte]

/-- What a host write can do, region by region of the window. -/
theorem memWrite_cases {off v : Byte} {s t : State} (h : memWrite off v s = .next t) :
    (∃ i, windowReg off = .key i ∧ t = unlessBusy (fun s => s.setKeyByte i v) s) ∨
      (∃ i, windowReg off = .data i ∧ t = unlessBusy (fun s => s.setDataByte i v) s) ∨
      (windowReg off = .cmd ∧ ∃ i, decode v = .ok i ∧ exec i s = .next t) ∨
      (windowReg off = .cmd ∧ (∃ r, decode v = .error r) ∧ t = unlessBusy (raiseError .illegalCmd) s) ∨
      (windowReg off = .status ∧ t = writeStatus v s) ∨
      ((windowReg off = .errcode ∨ (∃ j, windowReg off = .rk j) ∨ windowReg off = .reserved) ∧ t = s) := by
  unfold memWrite at h
  split at h <;> rename_i hw
  · cases h; exact .inl ⟨_, hw, rfl⟩
  · cases h; exact .inr (.inl ⟨_, hw, rfl⟩)
  · unfold writeCmd at h
    split at h <;> rename_i hd
    · exact .inr (.inr (.inl ⟨hw, _, hd, h⟩))
    · cases h; exact .inr (.inr (.inr (.inl ⟨hw, ⟨_, hd⟩, rfl⟩)))
  · cases h; exact .inr (.inr (.inr (.inr (.inl ⟨hw, rfl⟩))))
  all_goals cases h; simp [hw]

/-- A read changes the environment only: the log and the number of draws. -/
theorem memRead_eq (off : Byte) (s : State) : memRead off s = s.setEnv (memRead off s).env := rfl

@[simp] theorem memRead_readLog (off : Byte) (s : State) :
    (memRead off s).env.readLog = (off, readValue off s) :: s.env.readLog := rfl

@[simp] theorem memRead_host (off : Byte) (s : State) : (memRead off s).env.host = s.env.host := rfl

@[simp] theorem memRead_turns (off : Byte) (s : State) : (memRead off s).env.turns = s.env.turns := rfl

@[simp] theorem memRead_draws (off : Byte) (s : State) :
    (memRead off s).env.draws = s.env.draws + readDraws off s := rfl

/-- What a host turn can do: nothing, a write, or a read. -/
theorem hostTurn_cases {s t : State} (h : hostTurn s = .next t) :
    (s.env.host = [] ∧ t = s) ∨
      (∃ off v rest, s.env.host = .write off v :: rest ∧ memWrite off v (s.setHost rest) = .next t) ∨
      (∃ off rest, s.env.host = .read off :: rest ∧ t = memRead off (s.setHost rest)) ∨
      (∃ off mask val rest, s.env.host = .poll off mask val :: rest ∧
        ((pollDone mask val (readValue off s) = true ∧ t = memRead off (s.setHost rest)) ∨
          (pollDone mask val (readValue off s) = false ∧ t = memRead off s))) := by
  unfold hostTurn at h
  split at h <;> rename_i hh
  · exact .inl ⟨hh, by simpa using h.symm⟩
  · exact .inr (.inl ⟨_, _, _, hh, h⟩)
  · exact .inr (.inr (.inl ⟨_, _, hh, by simpa using h.symm⟩))
  · refine .inr (.inr (.inr ⟨_, _, _, _, hh, ?_⟩))
    cases h
    split <;> rename_i hp
    · exact .inl ⟨hp, rfl⟩
    · exact .inr ⟨by simpa using hp, rfl⟩

end Sys2Proof.Machine
end

