-- ==== Sys2Proof/Laws/Agents.lean ====
section
/-! SUPPORT. What a sequencer step and a step of the machine can do. -/

namespace Sys2Proof.Machine

@[simp] theorem setHost_host (s : State) (ops : List HostOp) : (s.setHost ops).env.host = ops := rfl

@[simp] theorem setHost_turns (s : State) (ops : List HostOp) : (s.setHost ops).env.turns = s.env.turns := rfl

@[simp] theorem setHost_seq (s : State) (ops : List HostOp) : (s.setHost ops).seq = s.seq := rfl

@[simp] theorem takeTurn_turns (s : State) : (takeTurn s).env.turns = s.env.turns.tail := rfl

@[simp] theorem takeTurn_host (s : State) : (takeTurn s).env.host = s.env.host := rfl

@[simp] theorem takeTurn_seq (s : State) : (takeTurn s).seq = s.seq := rfl

/-- Taking a turn touches the environment only. -/
theorem takeTurn_sameBlock (s : State) : SameBlock s (takeTurn s) := rfl

theorem setHost_sameBlock (s : State) (ops : List HostOp) : SameBlock s (s.setHost ops) := rfl

/-- What a read returns does not depend on what the host does next. -/
@[simp] theorem readValue_setHost (off : Byte) (s : State) (ops : List HostOp) :
    readValue off (s.setHost ops) = readValue off s := rfl

@[simp] theorem readValue_takeTurn (off : Byte) (s : State) : readValue off (takeTurn s) = readValue off s := rfl

theorem memRead_sameBlock (off : Byte) (s : State) : SameBlock s (memRead off s) := rfl

theorem SameBlock.refl (s : State) : SameBlock s s := rfl

theorem SameBlock.trans {s t u : State} (hst : SameBlock s t) (htu : SameBlock t u) : SameBlock s u := by
  unfold SameBlock at *
  rw [hst] at htu
  simpa using htu

theorem seqStep_idle {s : State} (h : s.seq = .idle) : seqStep s = s := by simp [seqStep, h]

theorem seqStep_kex {s : State} {r : Round} (h : s.seq = .kex r) : seqStep s = stepKex r s := by simp [seqStep, h]

theorem seqStep_enc {s : State} {r : Round} (h : s.seq = .enc r) : seqStep s = stepEnc r s := by simp [seqStep, h]

theorem seqStep_dec {s : State} {r : Round} (h : s.seq = .dec r) : seqStep s = stepDec r s := by simp [seqStep, h]

/-- KEX(r) sets the registers RK, RCON, KV and seq only. -/
theorem stepKex_frame (r : Round) (s : State) :
    stepKex r s =
      (((s.setRk (stepKex r s).rk).setRcon (stepKex r s).rcon).setKv (stepKex r s).kv).setSeq (stepKex r s).seq := by
  unfold stepKex stepKexRound kexNext stepKex0
  split
  · simp only [State.setRk, State.setRcon, State.setKv, State.setSeq]
  · split <;> simp only [State.setRk, State.setRcon, State.setKv, State.setSeq]

/-- ENC(r) sets DATA and seq only. -/
theorem stepEnc_frame (r : Round) (s : State) :
    stepEnc r s = (s.setData (encData s.rk s.data r)).setSeq (encNext r) := rfl

/-- DEC(r) sets DATA and seq only. -/
theorem stepDec_frame (r : Round) (s : State) :
    stepDec r s = (s.setData (decData s.rk s.data r)).setSeq (decNext r) := rfl

/-- A step is a turn of the host, of the sequencer, or of reset, after that turn is taken. -/
theorem step_cases {s t : State} (h : step s = .next t) :
    (nextAgent s = .host ∧ hostTurn (takeTurn s) = .next t) ∨
      (nextAgent s = .sequencer ∧ t = seqStep (takeTurn s)) ∨
      (nextAgent s = .reset ∧ t = resetEvent (takeTurn s)) := by
  unfold step agentStep at h
  split at h <;> rename_i ha
  · exact .inl ⟨ha, h⟩
  · cases h; exact .inr (.inl ⟨ha, rfl⟩)
  · cases h; exact .inr (.inr ⟨ha, rfl⟩)

theorem nextAgent_cons {s : State} {a : Agent} {ts : List Agent} (h : s.env.turns = a :: ts) : nextAgent s = a := by
  simp [nextAgent, h]

/-- Once the turns are used up, a running command steps. -/
theorem nextAgent_nil_busy {s : State} (h : s.env.turns = []) (hb : s.busy = true) : nextAgent s = .sequencer := by
  simp [nextAgent, h, hb]

theorem nextAgent_nil_idle {s : State} (h : s.env.turns = []) (hi : s.seq = .idle) : nextAgent s = .host := by
  simp [nextAgent, h, (not_busy_iff s).mpr hi]

/-- One more step before a run. -/
theorem run_succ {s t : State} (h : step s = .next t) (n : Nat) :
    Host.Core.run Sys2Proof.core (n + 1) s = Host.Core.run Sys2Proof.core n t := by
  have hc : Sys2Proof.core.step s = .next t := h
  simp [Host.Core.run, hc]

theorem run_zero (s : State) : Host.Core.run Sys2Proof.core 0 s = .next s := rfl

end Sys2Proof.Machine
end

