-- ==== Sys2Proof/Laws/PerInstr.lean ====
section
/-! SUPPORT. What holds of every command as syntax: it is well formed, its byte is a defined one, and that byte decodes
to it, with what follows it left over. -/

namespace Sys2Proof.Laws.Encoding

/-- Family Encoding: the command is well formed and its byte is one of 30_encoding.md R101. -/
def Statement (i : Instr) : Prop :=
  i.wf = true ∧ commandByteDefined (encode i) = true ∧ decodeTableWord 8 (encode i).toNat = some i

theorem nop : Statement .nop := by unfold Statement; decide

theorem expand : Statement .expand := by unfold Statement; decide

theorem encrypt : Statement .encrypt := by unfold Statement; decide

theorem decrypt : Statement .decrypt := by unfold Statement; decide

end Sys2Proof.Laws.Encoding
end

