-- ==== Sys2Proof/Machine/Port.lean ====
section
/-! DEFINITION. The block's port: the transactions that signals deliver become the host's, and the bytes that reads returned
go back as signals, both through the OPEN parameter BUS_PROTOCOL (00_scope.md R6; 92_eei_decisions.md D25; log 14). -/

namespace Sys2Proof.Machine

/-- A delivered transaction as an operation of the host's turn (45_host_commands.md R261, R262). -/
def transactionOp : BusTransaction → HostOp
  | .write off v => .write off v
  | .read off => .read off

/-- The operations that signals at the port amount to, in the order the protocol delivers them (20_memory.md R83). -/
def signalOps (w : Config.Signals) : List HostOp := (Config.busProtocol w).map transactionOp

/-- Signals arrive at the port: what they deliver comes after what the host has still to do (20_memory.md R83). -/
def State.withSignals (s : State) (w : Config.Signals) : State := s.setHost (s.env.host ++ signalOps w)

/-- The signals that return the bytes of the reads so far, the newest first (45_host_commands.md R262; log 5). -/
def State.answerSignals (s : State) : List Config.Signals := s.env.readLog.map fun (off, v) => Config.busAnswer off v

end Sys2Proof.Machine
end

