-- ==== Sys2Proof/Laws/Port.lean ====
section
/-! SUPPORT. What signals at the port do, whatever BUS_PROTOCOL is. -/

namespace Sys2Proof.Machine

@[simp] theorem withSignals_host (s : State) (w : Config.Signals) :
    (s.withSignals w).env.host = s.env.host ++ signalOps w := rfl

@[simp] theorem withSignals_turns (s : State) (w : Config.Signals) : (s.withSignals w).env.turns = s.env.turns := rfl

@[simp] theorem withSignals_seq (s : State) (w : Config.Signals) : (s.withSignals w).seq = s.seq := rfl

/-- Signals change no register: the block changes only when a transaction is performed. -/
theorem withSignals_sameBlock (s : State) (w : Config.Signals) : SameBlock s (s.withSignals w) := rfl

theorem nextAgent_withSignals (s : State) (w : Config.Signals) : nextAgent (s.withSignals w) = nextAgent s := rfl

/-- Signals that deliver nothing change nothing. -/
theorem withSignals_none {s : State} {w : Config.Signals} (h : Config.busProtocol w = []) : s.withSignals w = s := by
  have he : s.env.host ++ signalOps w = s.env.host := by simp [signalOps, h]
  rw [State.withSignals, he]; rfl

/-- The first write that signals deliver to an idle host is performed by the host's turn, the write dispatch. -/
theorem hostTurn_withSignals_write {s : State} {w : Config.Signals} {off v : Byte} {rest : List BusTransaction}
    (hs : s.env.host = []) (hw : Config.busProtocol w = .write off v :: rest) :
    hostTurn (s.withSignals w) = memWrite off v (s.setHost (rest.map transactionOp)) := by
  simp [hostTurn, State.withSignals, State.setHost, signalOps, hs, hw, transactionOp]

/-- The first read that signals deliver to an idle host is performed by the host's turn, and its byte goes back as signals. -/
theorem hostTurn_withSignals_read {s : State} {w : Config.Signals} {off : Byte} {rest : List BusTransaction}
    (hs : s.env.host = []) (hw : Config.busProtocol w = .read off :: rest) :
    ∃ t, hostTurn (s.withSignals w) = .next t ∧ t = memRead off (s.setHost (rest.map transactionOp)) ∧
      t.answerSignals = Config.busAnswer off (readValue off s) :: s.answerSignals := by
  refine ⟨_, ?_, rfl, ?_⟩
  · simp [hostTurn, State.withSignals, State.setHost, signalOps, hs, hw, transactionOp]
  · simp [State.answerSignals, show (s.setHost (rest.map transactionOp)).env.readLog = s.env.readLog from rfl]

end Sys2Proof.Machine
end

