-- ==== Sys2Proof/Tests/Slice0.lean ====
section
/-! SUPPORT. Tests. The expected values are the spec's own (95_test_vectors.md and the rules named), and after them one
witness per obligation with hypotheses: concrete states and operands that meet them, at the ends of their ranges. -/

namespace Sys2Proof.Tests

open Sys2Proof.Machine

-- One test after the other: so many tests at once would each hold a thread of their own.
set_option Elab.async false

/-! ### Well-formed terms and the ill-formed ones the checks refuse -/

/-- 30_encoding.md R102: 0x04 is the first byte that spells no command, 0xFF the last; 0x03 spells one. -/
theorem test_wf_command_byte :
    commandByteDefined 0x03 = true ∧ commandByteDefined 0x04 = false ∧ commandByteDefined 0xFF = false := by decide

/-- 30_encoding.md R109: a key or block string has 32 digits; 15 and 17 bytes are refused. -/
theorem test_wf_hex_block :
    (HostLine.ldkey (List.replicate 16 0xAA)).wf = true ∧ (HostLine.ldkey (List.replicate 15 0xAA)).wf = false ∧
      (HostLine.ldblk (List.replicate 17 0xAA)).wf = false ∧ (HostLine.rdblk []).wf = false := by decide

/-- 30_encoding.md R109: the round key index of RDRK is 0..10. -/
theorem test_wf_round_key_index :
    (HostLine.rdrk 10 (List.replicate 16 0x00)).wf = true ∧ (HostLine.rdrk 11 (List.replicate 16 0x00)).wf = false ∧
      (HostLine.rdrk 0 (List.replicate 15 0x00)).wf = false := by decide

/-- 30_encoding.md R104: every command is well formed; it has no operand that could be wrong. -/
theorem test_wf_commands :
    Instr.wf .nop = true ∧ Instr.wf .expand = true ∧ Instr.wf .encrypt = true ∧ Instr.wf .decrypt = true := by decide

/-! ### Decoding, the words written out from 30_encoding.md R101 -/

theorem test_decode_nop : decode 0b00000000#8 = .ok .nop ∧ decodeTableWord 8 0b00000000 = some .nop := by decide

theorem test_decode_expand : decode 0b00000001#8 = .ok .expand ∧ decodeTableWord 8 0b00000001 = some .expand := by decide

theorem test_decode_encrypt : decode 0b00000010#8 = .ok .encrypt ∧ decodeTableWord 8 0b00000010 = some .encrypt := by
  decide

theorem test_decode_decrypt : decode 0b00000011#8 = .ok .decrypt ∧ decodeTableWord 8 0b00000011 = some .decrypt := by
  decide

/-- 30_encoding.md R102: reserved bytes are refused by name, the single bits above bit 1 among them. -/
theorem test_decode_reserved :
    decode 0x04#8 = .error (.reservedOpcode 0x04) ∧ decode 0x80#8 = .error (.reservedOpcode 0x80) ∧
      decode 0x81#8 = .error (.reservedOpcode 0x81) ∧ decode 0xFF#8 = .error (.reservedOpcode 0xFF) ∧
      decodeTableWord 8 0x07 = none := by decide

/-- 30_encoding.md R105: a command is one byte; the next byte is left over, and no byte is no command. -/
theorem test_decode_bytes :
    decodeBytes [0x02, 0x03] = .ok (.encrypt, [0x03]) ∧ decodeBytes [] = .error .noByte := by decide

/-- 30_encoding.md R103: no byte fits two rows of the opcode map. -/
theorem test_opcode_rows_disjoint :
    opcodeTable.Pairwise (fun p q => p.mask &&& q.mask &&& (p.pattern ^^^ q.pattern) ≠ 0#8) := by decide

/-! ### The sub-blocks, values of 95_test_vectors.md -/

/-- V-GF-1: the rows 0x53, 0xCA and 0xFF. -/
theorem test_gf_rows :
    [mul2 0x53, mul3 0x53, mul9 0x53, mul11 0x53, mul13 0x53, mul14 0x53] = [0xA6, 0xF5, 0xFD, 0x5B, 0xAA, 0x5F] ∧
      [mul2 0xCA, mul3 0xCA, mul9 0xCA, mul11 0xCA, mul13 0xCA, mul14 0xCA] = [0x8F, 0x45, 0xC0, 0x4F, 0xC5, 0x80] ∧
      [mul2 0xFF, mul3 0xFF, mul9 0xFF, mul11 0xFF, mul13 0xFF, mul14 0xFF] = [0xE5, 0x1A, 0x46, 0xA3, 0x97, 0x8D] := by
  decide

/-- V-SBOX-1: both tables at the ends, at a row's first entry and in the middle. -/
theorem test_sbox_entries :
    [sboxF 0x00, sboxF 0x10, sboxF 0x53, sboxF 0xC9, sboxF 0xFF] = [0x63, 0xCA, 0xED, 0xDD, 0x16] ∧
      [sboxI 0x00, sboxI 0x10, sboxI 0x63, sboxI 0xED, sboxI 0xFF] = [0x52, 0x7C, 0x00, 0x53, 0x7D] := by
  decide +kernel

/-- 41_sbox_rom.md R153 and V-SBOX-1: no entry is its address, nor its address's complement. -/
theorem test_sbox_no_fixed_point : ∀ x : Byte, sboxF x ≠ x ∧ sboxF x ≠ x ^^^ 0xFF := by decide +kernel

/-- V-PRIM-1: the column `2d26314c`, in both directions. -/
theorem test_mix_column :
    mixColumn (hexWord 0x2d26314c) = hexWord 0x4d7ebdf8 ∧ invMixColumn (hexWord 0x2d26314c) = hexWord 0xa05050d6 := by
  decide +kernel

/-- V-KEX-1 and V-KEX-2: the last round key from the one before it. -/
theorem test_last_round_keys :
    nextRoundKey (rcon 10) (hexBlock 0x549932d1f08557681093ed9cbe2c974e) = hexBlock 0x13111d7fe3944a17f307a78b4d2b30c5 ∧
      nextRoundKey (rcon 10) (hexBlock 0xac7766f319fadc2128d12941575c006e) =
        hexBlock 0xd014f9a8c9ee2589e13f0cc8b6630ca6 := by decide +kernel

/-- V-ENC-1, row ENC(1): the three steps of a round before its round key. -/
theorem test_encrypt_round_steps :
    subBytes (hexBlock 0x00102030405060708090a0b0c0d0e0f0) = hexBlock 0x63cab7040953d051cd60e0e7ba70e18c ∧
      shiftRows (hexBlock 0x63cab7040953d051cd60e0e7ba70e18c) = hexBlock 0x6353e08c0960e104cd70b751bacad0e7 ∧
      mixColumns (hexBlock 0x6353e08c0960e104cd70b751bacad0e7) = hexBlock 0x5f72641557f5bc92f7be3b291db9f91a := by
  decide +kernel

/-- V-DEC-1, row DEC(9): the three steps of a round after its round key. -/
theorem test_decrypt_round_steps :
    invMixColumns (hexBlock 0xe9f74eec023020f61bf2ccf2353c21c7) = hexBlock 0x54d990a16ba09ab596bbf40ea111702f ∧
      invShiftRows (hexBlock 0x54d990a16ba09ab596bbf40ea111702f) = hexBlock 0x5411f4b56bd9700e96a0902fa1bb9aa1 ∧
      invSubBytes (hexBlock 0x5411f4b56bd9700e96a0902fa1bb9aa1) = hexBlock 0xfde3bad205e5d0d73547964ef1fe37f1 := by
  decide +kernel

/-! ### Single steps, the rows of 95_test_vectors.md V-HOST-1 -/

/-- A state with the given control point, KV and error latch; its stores are distinct bytes: KEY and round key 0 are the
W1 key, RK[j] is j. -/
def at' (q : Seq) (kv err : Bool) (code : Byte) : State :=
  { State.reset with
    key := hexBlock 0x000102030405060708090a0b0c0d0e0f
    data := hexBlock 0x00112233445566778899aabbccddeeff
    rk := Vector.ofFn fun j => BitVec.ofNat 8 j.val
    seq := q, kv := kv, err := err, errcode := code }

/-- The state with these host operations and these turns. -/
def given' (s : State) (ops : List HostOp) (ts : List Agent) : State := (s.setHost ops).setTurns ts

/-- STATUS and ERRCODE after an outcome. -/
def shows (o : Host.Outcome State Fault Refusal) (status code : Byte) : Bool :=
  match o with
  | .next t => t.status == status && t.errcode == code
  | .fault _ => false
  | .refused _ => false

/-- The next state of an outcome satisfies `p`. -/
def leaves (o : Host.Outcome State Fault Refusal) (p : State → Bool) : Bool :=
  match o with
  | .next t => p t
  | .fault _ => false
  | .refused _ => false

theorem test_nop_idle : shows (exec .nop (at' .idle false false 0)) 0x00 0x00 = true := by decide +kernel

theorem test_nop_busy : shows (exec .nop (at' (.kex 5) false false 0)) 0x55 0x02 = true := by decide +kernel

theorem test_expand_accepted : shows (exec .expand (at' .idle true false 0)) 0x01 0x00 = true := by decide +kernel

theorem test_encrypt_accepted : shows (exec .encrypt (at' .idle true false 0)) 0x03 0x00 = true := by decide +kernel

theorem test_encrypt_no_key : shows (exec .encrypt (at' .idle false false 0)) 0x04 0x03 = true := by decide +kernel

theorem test_decrypt_accepted : shows (exec .decrypt (at' .idle true false 0)) 0xA3 0x00 = true := by decide +kernel

theorem test_decrypt_no_key : shows (exec .decrypt (at' .idle false false 0)) 0x04 0x03 = true := by decide +kernel

/-- Error(BUSY) comes before NO_KEY and before ILLEGAL_CMD. -/
theorem test_busy_first :
    shows (memWrite 0x20#8 0x02 (at' (.kex 5) false false 0)) 0x55 0x02 = true ∧
      shows (memWrite 0x20#8 0x09 (at' (.kex 5) false false 0)) 0x55 0x02 = true := by decide +kernel

theorem test_illegal_command :
    shows (memWrite 0x20#8 0x04 (at' .idle true false 0)) 0x06 0x01 = true ∧
      shows (memWrite 0x20#8 0xFF (at' .idle false false 0)) 0x04 0x01 = true := by decide +kernel

/-- The first error's code stays. -/
theorem test_first_error_wins : shows (memWrite 0x20#8 0x04 (at' .idle true true 0x03)) 0x06 0x03 = true := by
  decide +kernel

/-- Only bit 2 of a STATUS write acts, also while a command runs. -/
theorem test_clear_error :
    shows (memWrite 0x21#8 0xFB (at' .idle true true 0x03)) 0x06 0x03 = true ∧
      shows (memWrite 0x21#8 0xFF (at' .idle true true 0x03)) 0x02 0x00 = true ∧
      shows (memWrite 0x21#8 0x04 (at' (.enc 3) true true 0x02)) 0x33 0x00 = true := by decide +kernel

theorem test_write_key_byte :
    leaves (memWrite 0x00#8 0x2B (at' .idle true false 0)) (fun t => t.key[0] == 0x2B && t.kv && t.key[1] == 0x01) = true := by
  decide +kernel

theorem test_write_dropped_while_busy :
    leaves (memWrite 0x05#8 0x11 (at' (.dec 7) true false 0)) (fun t => t.key[5] == 0x05 && t.errcode == 0x02) = true := by
  decide +kernel

/-- CMD, reserved offsets, and RK[15], RK[16] and RK[175] at 0x3F, 0x40 and 0xDF (20_memory.md R74). -/
theorem test_reads :
    readValue 0x20#8 (at' .idle true false 0) = 0x00 ∧ readValue 0x2F#8 (at' .idle true false 0) = 0x00 ∧
      readValue 0xE0#8 (at' .idle true false 0) = 0x00 ∧ readValue 0x3F#8 (at' .idle true false 0) = 0x0F ∧
      readValue 0x40#8 (at' .idle true false 0) = 0x10 ∧ readValue 0xDF#8 (at' .idle true false 0) = 0xAF := by
  decide +kernel

/-- RK reads as it is while ENCRYPT runs; DATA does not, and its read is a draw. -/
theorem test_reads_while_encrypting :
    windowByte 0x30#8 (at' (.enc 3) true false 0) = some 0x00 ∧ windowByte 0x10#8 (at' (.enc 3) true false 0) = none := by
  decide +kernel

theorem test_sequencer_kex :
    (seqStep (at' (.kex 0) false false 0)).status = 0x11 ∧ (seqStep (at' (.kex 0) false false 0)).rcon = 0x01 ∧
      (seqStep (at' (.kex 9) false false 0)).status = 0xA1 ∧ (seqStep (at' (.kex 10) false false 0)).status = 0x02 := by
  decide +kernel

theorem test_sequencer_enc :
    (seqStep (at' (.enc 0) true false 0)).status = 0x13 ∧
      (seqStep (at' (.enc 0) true false 0)).data = hexBlock 0x00102030405060708090a0b0c0d0e0f0 ∧
      (seqStep (at' (.enc 9) true false 0)).status = 0xA3 ∧ (seqStep (at' (.enc 10) true false 0)).status = 0x02 := by
  decide +kernel

theorem test_sequencer_dec :
    (seqStep (at' (.dec 10) true false 0)).status = 0x93 ∧ (seqStep (at' (.dec 1) true false 0)).status = 0x03 ∧
      (seqStep (at' (.dec 0) true false 0)).status = 0x02 := by decide +kernel

/-- Reset in the middle of ENCRYPT, with an error latched: STATUS 0x57 becomes 0x00. -/
theorem test_reset_event :
    (at' (.enc 5) true true 0x02).status = 0x57 ∧ (resetEvent (at' (.enc 5) true true 0x02)).status = 0x00 ∧
      (resetEvent (at' (.enc 5) true true 0x02)).errcode = 0x00 := by
  exact ⟨by decide +kernel, rfl, rfl⟩

/-- One step from reset runs the placed command byte: EXPAND, and the reserved byte 0x04. -/
theorem test_step_runs_placed_byte :
    shows (step (State.reset.withFetchWord 8 0x01)) 0x01 0x00 = true ∧
      shows (step (State.reset.withFetchWord 8 0x04)) 0x04 0x01 = true := by decide +kernel

/-! ### Witnesses: the hypotheses of each obligation are met -/

theorem witness_OpcodeMapAndFirstSteps :
    0x04 ≤ (0x04#8).toNat ∧ 0x04 ≤ (0xFF#8).toNat ∧ (at' .idle true false 0).seq = .idle ∧
      (at' .idle true false 0).kv = true := by decide +kernel

theorem witness_ReservedOpcodesSpellNoCommand :
    (0x04 ≤ (0x04#8).toNat ∧ 0x04 ≤ (0xFF#8).toNat) ∧
      ((at' .idle false false 0).seq = .idle ∧ (at' .idle false false 0).err = false) ∧
      ((at' .idle false true 0x01).seq = .idle ∧ (at' .idle false true 0x01).err = true) ∧
      ((at' (.kex 0) false false 0).seq ≠ .idle ∧ (at' (.kex 0) false false 0).err = false) ∧
      (at' (.dec 0) true true 0x02).seq ≠ .idle ∧ (at' (.dec 0) true true 0x02).err = true := by decide +kernel

theorem witness_DecodeEncodeAgree : Instr.wf .decrypt = true ∧ decode 0x03#8 = .ok .decrypt := by decide

theorem witness_StepRunsDecodedCommand :
    nextAgent (given' State.reset [.write 0x20#8 0x01, .read 0x21#8] []) = .host ∧
      (given' State.reset [.write 0x20#8 0x01, .read 0x21#8] []).env.host = .write 0x20#8 0x01 :: [.read 0x21#8] ∧
      decode 0x01#8 = .ok .expand ∧
      nextAgent (given' (at' (.enc 3) true false 0) [.write 0x20#8 0x03] [.host]) = .host := by decide +kernel

theorem witness_FetchWordRunsDecodedCommand :
    decodeTableWord 8 0x00 = some .nop ∧ decodeTableWord 8 0x03 = some .decrypt := by decide

theorem witness_StepIsOneTransition :
    ∃ t, step (given' State.reset [.write 0x00#8 0x2B] [.host]) = .next t := ⟨_, rfl⟩

theorem witness_NopDoesNothingWhenIdle :
    State.reset.seq = .idle ∧ (at' (.enc 10) true false 0).seq ≠ .idle := by decide +kernel

theorem witness_CommandsAreAcceptedWhenIdle :
    (at' .idle true false 0).seq = .idle ∧ (at' .idle true false 0).kv = true ∧ State.reset.seq = .idle := by decide +kernel

/-- The turns of one whole command with the host's between: first, in the middle, and before the last step. -/
def commandTurns : List Agent :=
  [.host, .sequencer, .sequencer, .sequencer, .sequencer, .sequencer, .host, .sequencer, .sequencer, .sequencer,
    .sequencer, .sequencer, .host, .sequencer]

/-- Ten turns of the sequencer: all but the last step of a command. -/
def tenSteps : List Agent := List.replicate 10 .sequencer

theorem witness_command_turns : CommandTurns commandTurns ∧ CommandTurns (List.replicate 11 .sequencer) := by
  unfold CommandTurns NoReset; decide

theorem witness_ExpandUnderEveryInterleaving :
    (given' (at' (.kex 0) false false 0) [] (commandTurns ++ [Agent.host])).seq = .kex 0 ∧
      (given' (at' (.kex 0) false false 0) [] (commandTurns ++ [Agent.host])).env.turns = commandTurns ++ [Agent.host] ∧
      CommandTurns commandTurns := ⟨rfl, rfl, witness_command_turns.1⟩

theorem witness_EncryptUnderEveryInterleaving :
    (given' (at' (.enc 0) true false 0) [.read 0x10#8] commandTurns).seq = .enc 0 ∧
      (given' (at' (.enc 0) true false 0) [.read 0x10#8] commandTurns).env.turns = commandTurns ++ ([] : List Agent) ∧
      CommandTurns commandTurns := ⟨rfl, rfl, witness_command_turns.1⟩

theorem witness_DecryptUnderEveryInterleaving :
    (given' (at' (.dec 10) true false 0) [.write 0x10#8 0xAA] commandTurns).seq = .dec 10 ∧
      (given' (at' (.dec 10) true false 0) [.write 0x10#8 0xAA] commandTurns).env.turns = commandTurns ++ ([] : List Agent) ∧
      CommandTurns commandTurns := ⟨rfl, rfl, witness_command_turns.1⟩

theorem witness_ExpandStepByStep :
    (at' (.kex 0) false false 0).seq = .kex 0 ∧
      ((0 : Round).val + 1 = (1 : Round).val ∧ (at' (.kex 1) false false 0).seq = .kex 1 ∧
        (2 : Round).val = (1 : Round).val + 1) ∧
      ((9 : Round).val + 1 = (10 : Round).val ∧ (at' (.kex 10) false false 0).seq = .kex 10) ∧
      1 ≤ (1 : Round).val ∧ 1 ≤ (10 : Round).val ∧ (1 : Round) ≠ 0 := by decide +kernel

theorem witness_EncryptStepByStep :
    (at' (.enc 0) true false 0).seq = .enc 0 ∧
      (1 ≤ (1 : Round).val ∧ (2 : Round).val = (1 : Round).val + 1 ∧ (at' (.enc 1) true false 0).seq = .enc 1) ∧
      (1 ≤ (9 : Round).val ∧ (10 : Round).val = (9 : Round).val + 1 ∧ (at' (.enc 9) true false 0).seq = .enc 9) ∧
      (at' (.enc 10) true false 0).seq = .enc 10 := by decide +kernel

theorem witness_DecryptStepByStep :
    (at' (.dec 10) true false 0).seq = .dec 10 ∧
      ((9 : Round).val ≤ 9 ∧ (8 : Round).val + 1 = (9 : Round).val ∧ (at' (.dec 9) true false 0).seq = .dec 9) ∧
      ((1 : Round).val ≤ 9 ∧ (0 : Round).val + 1 = (1 : Round).val ∧ (at' (.dec 1) true false 0).seq = .dec 1) ∧
      (at' (.dec 0) true false 0).seq = .dec 0 ∧ (0 : Round).val + (10 : Round).val = 10 ∧
      (10 : Round).val + (0 : Round).val = 10 := by decide +kernel

theorem witness_DecryptStepByStep_matching :
    ∃ e d : State, e.seq = .enc 0 ∧ d.seq = .dec 10 ∧ d.rk = e.rk ∧ d.data = encrypt e.rk e.data ∧
      1 ≤ (1 : Round).val ∧ 1 ≤ (10 : Round).val :=
  ⟨at' (.enc 0) true false 0,
    (at' (.dec 10) true false 0).setData (encrypt (at' (.enc 0) true false 0).rk (at' (.enc 0) true false 0).data),
    rfl, rfl, rfl, rfl, by decide, by decide⟩

theorem witness_RunningCommandEndsWithinElevenSteps :
    (at' (.kex 0) false false 0).seq ≠ .idle ∧ (at' (.kex 0) false false 0).env.turns = [] ∧
      (at' (.dec 0) true false 0).seq ≠ .idle ∧ (at' (.dec 0) true false 0).env.turns = [] := by decide +kernel

theorem witness_ExpandInvalidatesUntilItsLastStep :
    (given' (at' (.kex 0) false false 0) [] (tenSteps ++ [Agent.sequencer])).seq = .kex 0 ∧
      (given' (at' (.kex 0) false false 0) [] (tenSteps ++ [Agent.sequencer])).kv = false ∧
      (given' (at' (.kex 0) false false 0) [] (tenSteps ++ [Agent.sequencer])).env.turns =
        tenSteps ++ [Agent.sequencer] ∧
      NoReset tenSteps ∧ tenSteps.count .sequencer ≤ 10 ∧
      NoReset [.host] ∧ [Agent.host].count .sequencer ≤ 10 := by
  unfold NoReset; decide +kernel

theorem witness_KeyWriteLeavesStaleSchedule :
    (at' .idle true false 0).seq = .idle ∧ (at' .idle true false 0).kv = true := by decide +kernel

theorem witness_SequencerControlPoints :
    ((at' .idle true false 0).seq = .idle ∧ (at' .idle true false 0).kv = true) ∧
      ((1 : Round).val = (0 : Round).val + 1 ∧ (10 : Round).val = (9 : Round).val + 1) ∧
      (at' (.kex 0) false false 0).seq = .kex 0 ∧ (at' (.enc 9) true false 0).seq = .enc 9 ∧
      (at' (.dec 1) true false 0).seq = .dec 1 ∧
      ((at' (.kex 10) false false 0).seq = .kex 10 ∨ (at' (.kex 10) false false 0).seq = .enc 10 ∨
        (at' (.kex 10) false false 0).seq = .dec 0) := by decide +kernel

theorem witness_ErrorLatchIsStickyFirstWins :
    (at' .idle true false 0).err = false ∧ (at' .idle true true 0x03).err = true ∧
      (∃ t, memWrite 0x20#8 0x02 (at' .idle true true 0x03) = .next t) ∧ 0x20#8 ≠ 0x21#8 ∧
      (∃ t, memWrite 0x21#8 0xFB (at' .idle true true 0x03) = .next t) ∧ (0xFB#8).getLsbD 2 = false ∧
      (0x04#8).getLsbD 2 = true :=
  ⟨rfl, rfl, ⟨_, rfl⟩, by decide, ⟨_, rfl⟩, by decide, by decide⟩

theorem witness_FirstErrorCodeStaysUntilCleared :
    (given' (at' .idle true true 0x03) [.write 0x20#8 0x04, .write 0x21#8 0xFB] [.host, .sequencer]).err = true ∧
      NoReset (given' (at' .idle true true 0x03) [.write 0x20#8 0x04, .write 0x21#8 0xFB] [.host, .sequencer]).env.turns ∧
      (∀ v : Byte, HostOp.write 0x21#8 v ∈
        (given' (at' .idle true true 0x03) [.write 0x20#8 0x04, .write 0x21#8 0xFB] [.host, .sequencer]).env.host →
          v.getLsbD 2 = false) ∧
      ∃ t, Runs 3 (given' (at' .idle true true 0x03) [.write 0x20#8 0x04, .write 0x21#8 0xFB] [.host, .sequencer]) t := by
  refine ⟨rfl, by unfold NoReset; decide +kernel, ?_, ⟨_, rfl⟩⟩
  intro v hv
  have h : v = 0xFB := by simpa [given', State.setHost, State.setTurns, State.setEnv] using hv
  simp [h]

theorem witness_BusyDropsWrites :
    ((at' (.enc 3) true false 0).seq ≠ .idle ∧ (at' (.enc 3) true false 0).err = false ∧
        (at' (.enc 3) true true 0x02).err = true) ∧
      (0x00#8).toNat ≤ 0x20 ∧ (0x0F#8).toNat ≤ 0x20 ∧ (0x10#8).toNat ≤ 0x20 ∧ (0x20#8).toNat ≤ 0x20 ∧
      ¬ (0x21#8).toNat ≤ 0x20 ∧ (0xFB#8).getLsbD 2 = false := by decide +kernel

theorem witness_ErrorPriority :
    (at' (.kex 5) false false 0).seq ≠ .idle ∧
      ((at' .idle true false 0).seq = .idle ∧ 0x04 ≤ (0x04#8).toNat ∧ 0x04 ≤ (0xFF#8).toNat) ∧
      ((at' .idle false false 0).seq = .idle ∧ (at' .idle false false 0).kv = false) ∧
      ((0x1F#8) ≠ 0x20#8 ∧ (0x1F#8) ≠ 0x21#8 ∧ (0x22#8) ≠ 0x20#8 ∧ (0x22#8) ≠ 0x21#8 ∧
        ∃ t, memWrite 0x1F#8 0xAA (at' .idle false false 0) = .next t) ∧
      ResetControl State.reset :=
  ⟨by decide +kernel, by decide +kernel, by decide +kernel, ⟨by decide, by decide, by decide, by decide, ⟨_, rfl⟩⟩,
    rfl, rfl, rfl, rfl⟩

theorem witness_StatusWriteClearsError : (0x04#8).getLsbD 2 = true ∧ (0xFF#8).getLsbD 2 = true ∧
    (0xFB#8).getLsbD 2 = false := by decide

theorem witness_LegalAccessesRaiseNoError :
    0x22 ≤ (0x22#8).toNat ∧ 0x22 ≤ (0xFF#8).toNat ∧ (0x00#8).getLsbD 2 = false ∧
      ((at' .idle false false 0).seq = .idle ∧ (at' .idle false false 0).kv = false) ∧
      (at' .idle true false 0).seq = .idle ∧ (at' .idle true false 0).kv = true := by decide +kernel

theorem witness_WriteDispatch :
    ((at' (.kex 0) false false 0).seq ≠ .idle ∧ (0x20#8).toNat ≤ 0x20) ∧
      ((0x00#8).toNat = (0 : Fin 16).val ∧ (0x0F#8).toNat = (15 : Fin 16).val ∧ (at' .idle true false 0).seq = .idle) ∧
      ((0x10#8).toNat = 0x10 + (0 : Fin 16).val ∧ (0x1F#8).toNat = 0x10 + (15 : Fin 16).val) ∧
      ((at' .idle false false 0).kv = false ∧ (at' .idle true false 0).kv = true ∧ 0x04 ≤ (0x04#8).toNat) ∧
      (0x22 ≤ (0x22#8).toNat ∧ 0x22 ≤ (0xFF#8).toNat) := by decide +kernel

theorem witness_ReadDispatch :
    (∃ r, (at' (.enc 0) true false 0).seq = .enc r ∨ (at' (.enc 0) true false 0).seq = .dec r) ∧
      (∃ r, (at' (.dec 0) true false 0).seq = .enc r ∨ (at' (.dec 0) true false 0).seq = .dec r) ∧
      (∀ r, (at' (.kex 10) false false 0).seq ≠ .enc r ∧ (at' (.kex 10) false false 0).seq ≠ .dec r) ∧
      (∃ r, (at' (.kex 10) false false 0).seq = .kex r) ∧ (∀ r, (at' (.enc 0) true false 0).seq ≠ .kex r) ∧
      (0x23 ≤ (0x23#8).toNat ∧ (0x23#8).toNat ≤ 0x2F) ∧ (0x23 ≤ (0x2F#8).toNat ∧ (0x2F#8).toNat ≤ 0x2F) ∧
      0xE0 ≤ (0xE0#8).toNat ∧ 0xE0 ≤ (0xFF#8).toNat := by decide +kernel

theorem witness_WindowByteOrder : State.reset.seq = .idle := rfl

theorem witness_ReservedOffsetsAreIgnored :
    (0x23 ≤ (0x23#8).toNat ∧ (0x23#8).toNat ≤ 0x2F ∨ 0xE0 ≤ (0x23#8).toNat) ∧
      (0x23 ≤ (0xFF#8).toNat ∧ (0xFF#8).toNat ≤ 0x2F ∨ 0xE0 ≤ (0xFF#8).toNat) := by decide

theorem witness_HostWriteReadsBack :
    (at' .idle true false 0).seq = .idle ∧ (0x00#8).toNat < 0x20 ∧ (0x1F#8).toNat < 0x20 ∧ (0x20#8) ≠ 0x1F#8 := by
  decide +kernel

theorem witness_LastStepMakesResultsReadable :
    ((at' (.kex 10) false false 0).seq ≠ .idle ∧ (seqStep (at' (.kex 10) false false 0)).seq = .idle) ∧
      ((at' (.enc 10) true false 0).seq ≠ .idle ∧ (seqStep (at' (.enc 10) true false 0)).seq = .idle) ∧
      (at' (.dec 0) true false 0).seq ≠ .idle ∧ (seqStep (at' (.dec 0) true false 0)).seq = .idle := by decide +kernel

theorem witness_StepsMutateNoKeyAndRaiseNoError :
    ((at' (.enc 0) true false 0).seq = .enc 0 ∨ (at' (.enc 0) true false 0).seq = .dec 0) ∧
      ((at' (.dec 10) true false 0).seq = .dec 10 ∧ (at' (.dec 10) true true 0x02).seq = .dec 10) ∧
      (at' (.dec 10) true false 0).data = (at' (.dec 10) true true 0x02).data ∧
      roundKey (at' (.dec 10) true false 0).rk 10 = roundKey (at' (.dec 10) true true 0x02).rk 10 := by decide +kernel

theorem witness_CommandOperandsFrozen :
    (at' (.kex 0) false false 0).seq ≠ .idle ∧ ∃ t, memWrite 0x00#8 0xAA (at' (.kex 0) false false 0) = .next t :=
  ⟨by decide +kernel, ⟨_, rfl⟩⟩

theorem witness_IdleEndsOnlyByAcceptedCommand :
    State.reset.seq = .idle ∧ ∃ t, step (State.reset.withFetchWord 8 0x01) = .next t ∧ t.seq ≠ .idle :=
  ⟨rfl, ⟨_, rfl, by decide +kernel⟩⟩

theorem witness_SboxIsAffineOfFieldInverse : 0x01#8 ≠ 0x00#8 ∧ 0xFF#8 ≠ 0x00#8 := by decide

theorem witness_RotWordSubWordAndRcon : (1 ≤ 1 ∧ 1 ≤ 9) ∧ (1 ≤ 9 ∧ 9 ≤ 9) := by decide

theorem witness_KeyScheduleRecurrence :
    ((0 : Fin 44).val = (0 : Fin 4).val ∧ (3 : Fin 44).val = (3 : Fin 4).val) ∧
      (1 ≤ 1 ∧ (4 : Fin 44).val = 4 * 1 ∧ (3 : Fin 44).val + 1 = (4 : Fin 44).val ∧ (0 : Fin 44).val + 4 = (4 : Fin 44).val) ∧
      (1 ≤ 10 ∧ (40 : Fin 44).val = 4 * 10 ∧ (39 : Fin 44).val + 1 = (40 : Fin 44).val ∧
        (36 : Fin 44).val + 4 = (40 : Fin 44).val) ∧
      ((43 : Fin 44).val % 4 ≠ 0 ∧ (42 : Fin 44).val + 1 = (43 : Fin 44).val ∧ (39 : Fin 44).val + 4 = (43 : Fin 44).val) := by
  decide

theorem witness_SubBytesAndShiftRows :
    ((3 : Fin 4).val = ((0 : Fin 4).val + (3 : Fin 4).val) % 4 ∧ (2 : Fin 4).val = ((3 : Fin 4).val + (3 : Fin 4).val) % 4) ∧
      ∀ r c d : Fin 4, blockAt (hexBlock 0x00112233001122330011223300112233) r c =
        blockAt (hexBlock 0x00112233001122330011223300112233) r d := by decide +kernel

theorem witness_AddRoundKeyXorsRoundKey :
    (0 = 16 * (0 : Round).val + (0 : Fin 16).val ∧ (175 : Fin 176).val = 16 * (10 : Round).val + (15 : Fin 16).val) ∧
      roundKey State.reset.rk 10 = Vector.replicate 16 0x00 := by decide +kernel

theorem witness_InvSubBytesAndInvShiftRows :
    ((0 : Fin 4).val = ((1 : Fin 4).val + (3 : Fin 4).val) % 4 ∧ (3 : Fin 4).val = ((0 : Fin 4).val + (3 : Fin 4).val) % 4) ∧
      ∀ r c d : Fin 4, blockAt (hexBlock 0x00112233001122330011223300112233) r c =
        blockAt (hexBlock 0x00112233001122330011223300112233) r d := by decide +kernel

theorem witness_InversePairs :
    (1 ≤ (1 : Round).val ∧ (1 : Round).val ≤ 9) ∧ 1 ≤ (9 : Round).val ∧ (9 : Round).val ≤ 9 := by decide

theorem witness_RoundsFromPrimitives :
    ∃ rk : RoundKeys, rk = expandKey (hexBlock 0x000102030405060708090a0b0c0d0e0f) := ⟨_, rfl⟩

theorem witness_EncryptIsItsRounds :
    ((0 : Round).val + 1 = (1 : Round).val ∧ (1 : Round).val ≤ 9) ∧ (8 : Round).val + 1 = (9 : Round).val ∧
      (9 : Round).val ≤ 9 := by decide

theorem witness_DecryptUndoesEncrypt :
    ((9 : Round).val + 1 = (10 : Round).val ∧ 1 ≤ (9 : Round).val) ∧ (1 : Round).val + 1 = (2 : Round).val ∧
      1 ≤ (1 : Round).val := by decide

/-- The invariant holds of a state that has run: EXPAND has just been accepted, and it is the next state of a step. -/
theorem witness_StepKeepsInvariant :
    Inv (State.reset.withFetchWord 8 0x01) ∧ ∃ t, step (State.reset.withFetchWord 8 0x01) = .next t := by
  refine ⟨⟨⟨?_, ?_⟩, trivial, ?_⟩, ⟨_, rfl⟩⟩
  · exact ⟨fun _ => rfl, fun _ => rfl⟩
  · decide
  · intro h; cases h

theorem witness_ResetSatisfiesInvariant : ResetControl State.reset := ⟨rfl, rfl, rfl, rfl⟩

theorem witness_ResetEventDrawsTheStores : nextAgent (given' (at' (.enc 5) true true 0x02) [] [.reset]) = .reset := rfl

theorem witness_PseudoInstructionExpansions :
    (given' (at' .idle true false 0) (lineOps (.poll 0x21#8 0x01 0x00) ++ [.read 0x22#8]) []).env.host =
        lineOps (.poll 0x21#8 0x01 0x00) ++ [.read 0x22#8] ∧
      readValue 0x21#8 (at' .idle true false 0) &&& 0x01 = 0x00 ∧
      readValue 0x21#8 (at' (.enc 3) true false 0) &&& 0x01 ≠ 0x00 := by decide +kernel

theorem witness_ExpandKeyHostSequence :
    (given' State.reset (programOps [.ldkey (State.reset.key).toList, .cmd .expand, .wait]) [.sequencer, .host]).seq = .idle ∧
      NoReset (given' State.reset (programOps [.ldkey (State.reset.key).toList, .cmd .expand, .wait])
        [.sequencer, .host]).env.turns ∧
      (given' State.reset (programOps [.ldkey (State.reset.key).toList, .cmd .expand, .wait]) [.sequencer, .host]).env.host =
        programOps [.ldkey (State.reset.key).toList, .cmd .expand, .wait] :=
  ⟨rfl, by unfold NoReset; decide +kernel, rfl⟩

theorem witness_EncryptBlockHostSequence :
    ∃ s : State, ∃ p : Block, s.seq = .idle ∧ s.kv = true ∧ NoReset s.env.turns ∧
      s.env.host = programOps [.ldblk p.toList, .cmd .encrypt, .wait, .rdblk (encrypt s.rk p).toList] :=
  ⟨given' (at' .idle true false 0)
      (programOps [.ldblk (State.reset.data).toList, .cmd .encrypt, .wait,
        .rdblk (encrypt (at' .idle true false 0).rk State.reset.data).toList]) [.host, .sequencer],
    State.reset.data, rfl, rfl, by unfold NoReset; decide +kernel, rfl⟩

theorem witness_DecryptBlockHostSequence :
    ∃ s : State, ∃ c : Block, s.seq = .idle ∧ s.kv = true ∧ NoReset s.env.turns ∧
      s.env.host = programOps [.ldblk c.toList, .cmd .decrypt, .wait, .rdblk (decrypt s.rk c).toList] :=
  ⟨given' (at' .idle true false 0)
      (programOps [.ldblk (State.reset.data).toList, .cmd .decrypt, .wait,
        .rdblk (decrypt (at' .idle true false 0).rk State.reset.data).toList]) [.host, .sequencer],
    State.reset.data, rfl, rfl, by unfold NoReset; decide +kernel, rfl⟩

end Sys2Proof.Tests
end

/-! SUPPORT. The rules that the proofs of the state family share: the control points and where a sequencer step leads, what
a sequencer step leaves unchanged, the round keys that EXPAND builds, and what a host write can do. -/

namespace Sys2Proof.Machine

/-! ### Control points -/

/-- The control points of 10_state.md R36: IDLE and the eleven steps of each command. -/
def allSeqs : List Seq :=
  .idle :: ((List.finRange 11).map .kex ++ (List.finRange 11).map .enc ++ (List.finRange 11).map .dec)

theorem mem_allSeqs (q : Seq) : q ∈ allSeqs := by
  cases q <;> simp [allSeqs]

theorem nodup_allSeqs : allSeqs.Nodup := by decide

theorem length_allSeqs : allSeqs.length = 34 := by decide

theorem stepKex_zero (s : State) : stepKex 0 s = stepKex0 s := rfl

theorem stepKex_ne_zero {r : Round} (hr : r ≠ 0) (s : State) : stepKex r s = stepKexRound r s := if_neg hr

theorem kexNext_succ {r q : Round} (h : q.val = r.val + 1) (s : State) : kexNext r s = s.setSeq (.kex q) := by
  have hr : r.val < 10 := by omega
  have hq : (⟨r.val + 1, by omega⟩ : Round) = q := Fin.ext h.symm
  simp [kexNext, hr, hq]

theorem encNext_succ {r q : Round} (h : q.val = r.val + 1) : encNext r = .enc q := by
  have hr : r.val < 10 := by omega
  have hq : (⟨r.val + 1, by omega⟩ : Round) = q := Fin.ext h.symm
  simp [encNext, hr, hq]

theorem encNext_last : encNext 10 = .idle := rfl

theorem decNext_pred {r q : Round} (h : q.val = r.val + 1) : decNext q = .dec r := by
  have hq : q ≠ 0 := fun e => by simp [e] at h
  have hr : (⟨q.val - 1, by omega⟩ : Round) = r := Fin.ext (by simp [h])
  simp [decNext, hq, hr]

theorem decNext_last : decNext 0 = .idle := rfl

theorem stepKex_seq_succ {r q : Round} (h : q.val = r.val + 1) (s : State) : (stepKex r s).seq = .kex q := by
  by_cases hr : r = 0
  · subst hr
    obtain rfl : q = 1 := Fin.ext h
    rfl
  · rw [stepKex_ne_zero hr, stepKexRound, kexNext_succ h]
    rfl

theorem stepKex_seq_last (s : State) : (stepKex 10 s).seq = .idle := rfl

@[simp] theorem stepEnc_seq (r : Round) (s : State) : (stepEnc r s).seq = encNext r := rfl

@[simp] theorem stepDec_seq (r : Round) (s : State) : (stepDec r s).seq = decNext r := rfl

/-- ENC(r) does not lead into EXPAND. -/
theorem encNext_ne_kex (r q : Round) : encNext r ≠ .kex q := by
  unfold encNext
  split <;> simp

/-- DEC(r) does not lead into EXPAND. -/
theorem decNext_ne_kex (r q : Round) : decNext r ≠ .kex q := by
  unfold decNext
  split <;> simp

/-! ### What a sequencer step leaves unchanged -/

/-- A sequencer step sets DATA, RK, RCON, KV and seq at most: neither KEY nor the error latch nor the environment. -/
theorem seqStep_frame (s : State) :
    seqStep s = ((((s.setData (seqStep s).data).setRk (seqStep s).rk).setRcon (seqStep s).rcon).setKv
      (seqStep s).kv).setSeq (seqStep s).seq := by
  cases h : s.seq with
  | idle => rw [seqStep_idle h]; rfl
  | kex r =>
    have hd : (stepKex r s).data = s.data := by rw [stepKex_frame]; rfl
    rw [seqStep_kex h, hd]
    exact stepKex_frame r s
  | enc r => rw [seqStep_enc h]; rfl
  | dec r => rw [seqStep_dec h]; rfl

@[simp] theorem seqStep_key (s : State) : (seqStep s).key = s.key := by
  rw [seqStep_frame]; rfl

@[simp] theorem seqStep_err (s : State) : (seqStep s).err = s.err := by
  rw [seqStep_frame]; rfl

@[simp] theorem seqStep_errcode (s : State) : (seqStep s).errcode = s.errcode := by
  rw [seqStep_frame]; rfl

/-- The steps of ENCRYPT and DECRYPT set neither RK nor KV. -/
theorem seqStep_rk_kv_of_engine {s : State} {r : Round} (h : s.seq = .enc r ∨ s.seq = .dec r) :
    (seqStep s).rk = s.rk ∧ (seqStep s).kv = s.kv := by
  rcases h with h | h
  · rw [seqStep_enc h]; exact ⟨rfl, rfl⟩
  · rw [seqStep_dec h]; exact ⟨rfl, rfl⟩

/-- AddRoundKey reads of the schedule only the round key it adds. -/
theorem addRoundKey_congr {x y : RoundKeys} {r : Round} (h : roundKey x r = roundKey y r) (b : Block) :
    addRoundKey x b r = addRoundKey y b r := by
  rw [addRoundKey, h, addRoundKey]

/-- ENC(r) reads of the schedule only round key r. -/
theorem encData_congr {x y : RoundKeys} {r : Round} (h : roundKey x r = roundKey y r) (b : Block) :
    encData x b r = encData y b r := by
  by_cases h0 : r = 0
  · subst h0; exact addRoundKey_congr h b
  by_cases h10 : r = 10
  · subst h10; exact addRoundKey_congr h _
  · simp only [encData, h0, h10, if_false]
    exact addRoundKey_congr h _

/-- DEC(r) reads of the schedule only round key r. -/
theorem decData_congr {x y : RoundKeys} {r : Round} (h : roundKey x r = roundKey y r) (b : Block) :
    decData x b r = decData y b r := by
  by_cases h10 : r = 10
  · subst h10; exact congrArg (fun c => invSubBytes (invShiftRows c)) (addRoundKey_congr h b)
  by_cases h0 : r = 0
  · subst h0; exact addRoundKey_congr h b
  · simp only [decData, h0, h10, if_false, decRound, addRoundKey_congr h b]

/-! ### The round keys that EXPAND builds -/

@[simp] theorem kexNext_rk (r : Round) (s : State) : (kexNext r s).rk = s.rk := by
  unfold kexNext; split <;> rfl

@[simp] theorem kexNext_rcon (r : Round) (s : State) : (kexNext r s).rcon = s.rcon := by
  unfold kexNext; split <;> rfl

@[simp] theorem stepKex_key (r : Round) (s : State) : (stepKex r s).key = s.key := by
  rw [stepKex_frame]; rfl

theorem stepKex_kv_of_lt {r : Round} (h : r.val < 10) (s : State) : (stepKex r s).kv = s.kv := by
  by_cases hr : r = 0
  · subst hr
    simp [stepKex_zero, stepKex0]
  · rw [stepKex_ne_zero hr, stepKexRound, kexNext_succ (q := ⟨r.val + 1, by omega⟩) rfl]
    simp

/-- KEX(r) writes no round key but r. -/
theorem stepKex_roundKey_other {r k : Round} (h : k ≠ r) (s : State) :
    roundKey (stepKex r s).rk k = roundKey s.rk k := by
  by_cases hr : r = 0
  · subst hr
    exact roundKey_withRoundKey_other _ _ h
  · rw [stepKex_ne_zero hr]
    simp [stepKexRound, roundKey_withRoundKey_other _ _ h]

theorem stepKex_roundKey_zero (s : State) : roundKey (stepKex 0 s).rk 0 = s.key :=
  roundKey_withRoundKey_same _ _ _

theorem stepKex_roundKey_succ {p r : Round} (h : r.val = p.val + 1) (s : State) :
    roundKey (stepKex r s).rk r = nextRoundKey s.rcon (roundKey s.rk p) := by
  have hr : r ≠ 0 := fun e => by simp [e] at h
  have hp : (⟨r.val - 1, by omega⟩ : Round) = p := Fin.ext (by simp [h])
  rw [stepKex_ne_zero hr]
  simp [stepKexRound, hp]

theorem stepKex_rcon_zero (s : State) : (stepKex 0 s).rcon = 0x01 := rfl

theorem stepKex_rcon_ne_zero {r : Round} (hr : r ≠ 0) (s : State) : (stepKex r s).rcon = double s.rcon := by
  rw [stepKex_ne_zero hr]
  simp [stepKexRound]

/-- From each round to the next the round constant is doubled (42_key_expander.md R175). -/
theorem rcon_succ {r : Nat} (hr : 0 < r) : rcon (r + 1) = double (rcon r) := by
  obtain ⟨n, rfl⟩ : ∃ n, r = n + 1 := ⟨r - 1, by omega⟩
  exact Function.iterate_succ_apply' double n 0x01

/-- The round keys before round `n` are those of KEY: how far EXPAND has come. -/
def BuiltBelow (s : State) (n : Nat) : Prop := ∀ k : Round, k.val < n → roundKey s.rk k = roundKeyOf s.key k.val

/-- RCON is the constant that step KEX(r) uses; KEX(0) uses none (10_state.md R40). -/
def RconReady (s : State) (r : Nat) : Prop := 0 < r → s.rcon = rcon r

theorem seqInv_of_idle {s : State} (h : s.seq = .idle) : SeqInv s := by
  unfold SeqInv
  rw [h]
  trivial

theorem seqInv_kex_iff {s : State} {r : Round} (h : s.seq = .kex r) :
    SeqInv s ↔ s.kv = false ∧ BuiltBelow s r.val ∧ RconReady s r.val := by
  unfold SeqInv
  rw [h]
  rfl

theorem seqInv_enc_iff {s : State} {r : Round} (h : s.seq = .enc r) : SeqInv s ↔ s.kv = true := by
  unfold SeqInv
  rw [h]

theorem seqInv_dec_iff {s : State} {r : Round} (h : s.seq = .dec r) : SeqInv s ↔ s.kv = true := by
  unfold SeqInv
  rw [h]

/-- Outside EXPAND a complete schedule is all that a control point asks for. -/
theorem seqInv_of_kv {s : State} (hkv : s.kv = true) (h : ∀ r, s.seq ≠ .kex r) : SeqInv s := by
  cases hs : s.seq with
  | idle => exact seqInv_of_idle hs
  | kex r => exact absurd hs (h r)
  | enc r => exact (seqInv_enc_iff hs).mpr hkv
  | dec r => exact (seqInv_dec_iff hs).mpr hkv

/-- KEX(r) adds round key r to the ones that are built. -/
theorem stepKex_builtBelow {s : State} {r : Round} (hb : BuiltBelow s r.val) (hc : RconReady s r.val) :
    BuiltBelow (stepKex r s) (r.val + 1) := by
  intro k hk
  rw [stepKex_key]
  by_cases hkr : k = r
  · subst hkr
    by_cases h0 : k = 0
    · subst h0; exact stepKex_roundKey_zero s
    · have hpos : 0 < k.val := Fin.pos_iff_ne_zero.mpr h0
      obtain ⟨p, hp⟩ : ∃ p : Round, k.val = p.val + 1 := ⟨⟨k.val - 1, by omega⟩, by dsimp only; omega⟩
      rw [stepKex_roundKey_succ hp, hb p (by omega), hc hpos, hp]
      rfl
  · have hlt : k.val ≠ r.val := fun e => hkr (Fin.ext e)
    rw [stepKex_roundKey_other hkr]
    exact hb k (by omega)

/-- KEX(r) leaves in RCON the constant of the step after it. -/
theorem stepKex_rconReady {s : State} {r : Round} (hc : RconReady s r.val) :
    RconReady (stepKex r s) (r.val + 1) := by
  intro _
  by_cases h0 : r = 0
  · subst h0; exact stepKex_rcon_zero s
  · have hr : 0 < r.val := Fin.pos_iff_ne_zero.mpr h0
    rw [stepKex_rcon_ne_zero h0, hc hr, rcon_succ hr]

/-- Eleven round keys of KEY are the expansion of KEY. -/
theorem rk_eq_expandKey_of_builtBelow {s : State} (h : BuiltBelow s 11) : s.rk = expandKey s.key :=
  roundKeys_ext fun k => by rw [h k k.isLt, roundKey_expandKey]

/-! ### What a host write can do -/

/-- The effects a host write can have on the state, each with what the block must be in for it. -/
inductive WriteEffect (s : State) : State → Prop where
  | ignored : WriteEffect s s
  | error (c : ErrorCause) : WriteEffect s (raiseError c s)
  | cleared : WriteEffect s (clearError s)
  | keyByte (i : Fin 16) (v : Byte) : s.seq = .idle → WriteEffect s (s.setKeyByte i v)
  | dataByte (i : Fin 16) (v : Byte) : s.seq = .idle → WriteEffect s (s.setDataByte i v)
  | expand : s.seq = .idle → WriteEffect s (acceptExpand s)
  | encrypt : s.seq = .idle → s.kv = true → WriteEffect s (acceptEncrypt s)
  | decrypt : s.seq = .idle → s.kv = true → WriteEffect s (acceptDecrypt s)

/-- A guarded write reports Error(BUSY), or has the effect of its action while IDLE. -/
theorem WriteEffect.of_unlessBusy {act : State → State} {s : State} (h : s.seq = .idle → WriteEffect s (act s)) :
    WriteEffect s (unlessBusy act s) := by
  cases hb : s.busy
  · have hi := (not_busy_iff s).mp hb
    rw [unlessBusy_idle act hi]
    exact h hi
  · rw [unlessBusy_busy act hb]
    exact .error .busy

theorem WriteEffect.of_exec {i : Instr} {s t : State} (h : exec i s = .next t) : WriteEffect s t := by
  obtain ⟨-, rfl⟩ | ⟨hi, hcmd⟩ := exec_cases h
  · exact .error .busy
  obtain ⟨-, rfl⟩ | ⟨-, rfl⟩ | ⟨-, -, rfl⟩ | ⟨-, hk, rfl⟩ | ⟨-, hk, rfl⟩ := hcmd
  · exact .ignored
  · exact .expand hi
  · exact .error .noKey
  · exact .encrypt hi hk
  · exact .decrypt hi hk

theorem WriteEffect.of_writeStatus (v : Byte) (s : State) : WriteEffect s (writeStatus v s) := by
  unfold writeStatus
  split
  · exact .cleared
  · exact .ignored

theorem WriteEffect.of_memWrite {off v : Byte} {s t : State} (h : memWrite off v s = .next t) : WriteEffect s t := by
  obtain ⟨i, -, rfl⟩ | ⟨i, -, rfl⟩ | ⟨-, i, -, hx⟩ | ⟨-, -, rfl⟩ | ⟨-, rfl⟩ | ⟨-, rfl⟩ := memWrite_cases h
  · exact .of_unlessBusy fun hi => .keyByte i v hi
  · exact .of_unlessBusy fun hi => .dataByte i v hi
  · exact .of_exec hx
  · exact .of_unlessBusy fun _ => .error .illegalCmd
  · exact .of_writeStatus v s
  · exact .ignored

/-- While a command runs a host write reaches the error latch at most. -/
theorem WriteEffect.eq_setError_of_busy {s t : State} (h : WriteEffect s t) (hb : s.seq ≠ .idle) :
    t = s.setError t.err t.errcode := by
  cases h with
  | ignored => rfl
  | error c => exact raiseError_frame c s
  | cleared => rfl
  | keyByte _ _ hi => exact absurd hi hb
  | dataByte _ _ hi => exact absurd hi hb
  | expand hi => exact absurd hi hb
  | encrypt hi _ => exact absurd hi hb
  | decrypt hi _ => exact absurd hi hb

/-- No host write reaches RK, RCON or the environment. -/
theorem WriteEffect.rk_rcon_env {s t : State} (h : WriteEffect s t) :
    t.rk = s.rk ∧ t.rcon = s.rcon ∧ t.env = s.env := by
  cases h with
  | error c => exact ⟨raiseError_rk c s, raiseError_rcon c s, raiseError_env c s⟩
  | _ => exact ⟨rfl, rfl, rfl⟩

end Sys2Proof.Machine

/-! SUPPORT. The invariant of the machine, kept by each transition: what a host write does, a read, a sequencer step and the
reset event. -/

namespace Sys2Proof.Machine

/-- Whatever the stores hold, the control state of reset meets the invariant. -/
theorem inv_of_resetControl {s : State} (h : ResetControl s) : Inv s := by
  obtain ⟨hseq, hkv, herr, hcode⟩ := h
  refine ⟨⟨?_, ?_⟩, seqInv_of_idle hseq, ?_⟩
  · simp [herr, hcode]
  · simp [hcode]
  · intro hk
    simp [hkv] at hk

theorem resetEvent_resetControl (s : State) : ResetControl (resetEvent s) := ⟨rfl, rfl, rfl, rfl⟩

/-- The invariant says nothing of the environment. -/
theorem Inv.of_sameBlock {s t : State} (h : SameBlock s t) (hs : Inv s) : Inv t := by
  rw [h]
  exact hs

theorem ErrorInv.congr {s t : State} (he : t.err = s.err) (hc : t.errcode = s.errcode) (h : ErrorInv s) :
    ErrorInv t := by
  unfold ErrorInv
  rwa [he, hc]

theorem ScheduleInv.congr {s t : State} (hk : t.kv = s.kv) (hr : t.rk = s.rk) (h : ScheduleInv s) :
    ScheduleInv t := by
  unfold ScheduleInv
  rwa [hk, hr]

/-- The error latch enters neither the control points' part of the invariant nor the schedule's. -/
theorem setError_inv {s : State} {e : Bool} {c : Byte} (h : Inv s) (he : ErrorInv (s.setError e c)) :
    Inv (s.setError e c) := by
  obtain ⟨-, hseq, hsched⟩ := h
  exact ⟨he, hseq, hsched⟩

/-- Every code that is reported is one of 0x01..0x03 (30_encoding.md R107). -/
theorem errorInv_setError_code (c : ErrorCause) (s : State) : ErrorInv (s.setError true c.code) := by
  unfold ErrorInv
  cases c <;> simp [ErrorCause.code]

theorem raiseError_inv {s : State} (c : ErrorCause) (h : Inv s) : Inv (raiseError c s) := by
  cases he : s.err
  · rw [raiseError_first c he]
    exact setError_inv h (errorInv_setError_code c s)
  · rwa [raiseError_later c he]

theorem clearError_inv {s : State} (h : Inv s) : Inv (clearError s) :=
  setError_inv h ⟨⟨fun _ => rfl, fun _ => rfl⟩, Nat.zero_le _⟩

/-- An accepted EXPAND clears KV, and no round key is built yet. -/
theorem acceptExpand_inv {s : State} (h : Inv s) : Inv (acceptExpand s) := by
  obtain ⟨herr, -, -⟩ := h
  refine ⟨herr, (seqInv_kex_iff (r := 0) rfl).mpr ⟨rfl, ?_, ?_⟩, ?_⟩
  · intro k hk
    exact absurd hk (Nat.not_lt_zero _)
  · intro h0
    exact absurd h0 (Nat.lt_irrefl _)
  · intro hk
    cases hk

/-- ENCRYPT and DECRYPT are accepted only while KV=1 (60_exceptions.md R304). -/
theorem setSeq_inv_of_kv {s : State} {q : Seq} (h : Inv s) (hkv : s.kv = true) (hq : ∀ r, q ≠ .kex r) :
    Inv (s.setSeq q) := by
  obtain ⟨herr, -, hsched⟩ := h
  exact ⟨herr, seqInv_of_kv hkv hq, hsched⟩

theorem WriteEffect.inv {s t : State} (h : WriteEffect s t) (hs : Inv s) : Inv t := by
  have ⟨herr, _, hsched⟩ := hs
  cases h with
  | ignored => exact hs
  | error c => exact raiseError_inv c hs
  | cleared => exact clearError_inv hs
  | keyByte _ _ hi => exact ⟨herr, seqInv_of_idle hi, hsched⟩
  | dataByte _ _ hi => exact ⟨herr, seqInv_of_idle hi, hsched⟩
  | expand _ => exact acceptExpand_inv hs
  | encrypt _ hk => exact setSeq_inv_of_kv hs hk (by simp)
  | decrypt _ hk => exact setSeq_inv_of_kv hs hk (by simp)

theorem hostTurn_inv {s t : State} (h : hostTurn s = .next t) (hs : Inv s) : Inv t := by
  have hset (ops : List HostOp) : Inv (s.setHost ops) := hs.of_sameBlock (setHost_sameBlock s ops)
  obtain ⟨-, rfl⟩ | ⟨off, v, rest, -, hw⟩ | ⟨off, rest, -, rfl⟩ | ⟨off, _, _, rest, -, ⟨-, rfl⟩ | ⟨-, rfl⟩⟩ :=
    hostTurn_cases h
  · exact hs
  · exact (WriteEffect.of_memWrite hw).inv (hset rest)
  · exact (hset rest).of_sameBlock (memRead_sameBlock off _)
  · exact (hset rest).of_sameBlock (memRead_sameBlock off _)
  · exact hs.of_sameBlock (memRead_sameBlock off s)

/-- KEX(r) keeps what the control points say: one more round key is built, and KEX(10) ends EXPAND. -/
theorem stepKex_seqInv {s : State} {r : Round} (hkv : s.kv = false) (hb : BuiltBelow s r.val)
    (hc : RconReady s r.val) : SeqInv (stepKex r s) := by
  by_cases hr : r.val < 10
  · refine (seqInv_kex_iff (stepKex_seq_succ (q := ⟨r.val + 1, by omega⟩) rfl s)).mpr ⟨?_, ?_, ?_⟩
    · rw [stepKex_kv_of_lt hr, hkv]
    · exact stepKex_builtBelow hb hc
    · exact stepKex_rconReady hc
  · obtain rfl : r = 10 := Fin.ext (by simp; omega)
    exact seqInv_of_idle (stepKex_seq_last s)

/-- KV becomes 1 at KEX(10) only, when all eleven round keys are built. -/
theorem stepKex_scheduleInv {s : State} {r : Round} (hkv : s.kv = false) (hb : BuiltBelow s r.val)
    (hc : RconReady s r.val) : ScheduleInv (stepKex r s) := by
  intro hk
  by_cases hr : r.val < 10
  · rw [stepKex_kv_of_lt hr, hkv] at hk
    cases hk
  · obtain rfl : r = 10 := Fin.ext (by simp; omega)
    exact ⟨_, rk_eq_expandKey_of_builtBelow (stepKex_builtBelow hb hc)⟩

theorem seqStep_inv {s : State} (hs : Inv s) : Inv (seqStep s) := by
  have ⟨herr, hseq, hsched⟩ := hs
  have herr' : ErrorInv (seqStep s) := herr.congr (seqStep_err s) (seqStep_errcode s)
  cases h : s.seq with
  | idle => rwa [seqStep_idle h]
  | kex r =>
    obtain ⟨hkv, hb, hc⟩ := (seqInv_kex_iff h).mp hseq
    refine ⟨herr', ?_, ?_⟩
    · rw [seqStep_kex h]; exact stepKex_seqInv hkv hb hc
    · rw [seqStep_kex h]; exact stepKex_scheduleInv hkv hb hc
  | enc r =>
    obtain ⟨hrk, hkv⟩ := seqStep_rk_kv_of_engine (.inl h)
    refine ⟨herr', seqInv_of_kv ?_ ?_, hsched.congr hkv hrk⟩
    · rw [hkv]; exact (seqInv_enc_iff h).mp hseq
    · rw [seqStep_enc h]; exact encNext_ne_kex r
  | dec r =>
    obtain ⟨hrk, hkv⟩ := seqStep_rk_kv_of_engine (.inr h)
    refine ⟨herr', seqInv_of_kv ?_ ?_, hsched.congr hkv hrk⟩
    · rw [hkv]; exact (seqInv_dec_iff h).mp hseq
    · rw [seqStep_dec h]; exact decNext_ne_kex r

/-! ### The obligations of 10_state.md -/

/-- Settles O53: a step is a turn of the host, a sequencer step or a reset event, and each of them keeps the invariant. -/
theorem stepKeepsInvariant : Obligations.StepKeepsInvariant := by
  intro s t hs h
  have htake : Inv (takeTurn s) := hs.of_sameBlock (takeTurn_sameBlock s)
  obtain ⟨-, hhost⟩ | ⟨-, rfl⟩ | ⟨-, rfl⟩ := step_cases h
  · exact hostTurn_inv hhost htake
  · exact seqStep_inv htake
  · exact inv_of_resetControl (resetEvent_resetControl _)

/-- Settles O20, from where each step leads. -/
theorem sequencerControlPoints : Obligations.SequencerControlPoints := by
  refine ⟨⟨allSeqs, nodup_allSeqs, length_allSeqs, mem_allSeqs⟩, ?_, ?_, ?_, fun _ => rfl, rfl⟩
  · intro s hi hk
    refine ⟨⟨acceptExpand s, ?_, rfl⟩, ⟨acceptEncrypt s, ?_, rfl⟩, ⟨acceptDecrypt s, ?_, rfl⟩⟩
    · rw [exec_expand, unlessBusy_idle _ hi]
    · rw [exec_encrypt, unlessBusy_idle _ hi, requireKey_valid _ hk]
    · rw [exec_decrypt, unlessBusy_idle _ hi, requireKey_valid _ hk]
  · intro s r q hq
    refine ⟨fun h => ?_, fun h => ?_, fun h => ?_⟩
    · rw [seqStep_kex h, stepKex_seq_succ hq]
    · rw [seqStep_enc h, stepEnc_seq, encNext_succ hq]
    · rw [seqStep_dec h, stepDec_seq, decNext_pred hq]
  · rintro s (h | h | h)
    · rw [seqStep_kex h, stepKex_seq_last]
    · rw [seqStep_enc h, stepEnc_seq, encNext_last]
    · rw [seqStep_dec h, stepDec_seq, decNext_last]

/-- Settles O33: the frame of a sequencer step, and an engine step reads of RK only its own round key. -/
theorem stepsMutateNoKeyAndRaiseNoError : Obligations.StepsMutateNoKeyAndRaiseNoError := by
  refine ⟨fun s => ⟨seqStep_key s, seqStep_err s, seqStep_errcode s⟩, fun _ _ h => seqStep_rk_kv_of_engine h, ?_⟩
  rintro s t r (⟨hs, ht⟩ | ⟨hs, ht⟩) hdata hkey
  · rw [seqStep_enc hs, seqStep_enc ht]
    calc encData s.rk s.data r = encData t.rk s.data r := encData_congr hkey _
      _ = encData t.rk t.data r := by rw [hdata]
  · rw [seqStep_dec hs, seqStep_dec ht]
    calc decData s.rk s.data r = decData t.rk s.data r := decData_congr hkey _
      _ = decData t.rk t.data r := by rw [hdata]

/-- Settles O34, from the effects a host write can have. -/
theorem commandOperandsFrozen : Obligations.CommandOperandsFrozen :=
  ⟨fun _ _ _ _ hb h => (WriteEffect.of_memWrite h).eq_setError_of_busy hb, fun s off => memRead_sameBlock off s,
    fun _ _ _ _ h => (WriteEffect.of_memWrite h).rk_rcon_env⟩

/-- Settles O54: the reset state and every state after a reset event have the control state of reset. -/
theorem resetSatisfiesInvariant : Obligations.ResetSatisfiesInvariant :=
  ⟨inv_of_resetControl ⟨rfl, rfl, rfl, rfl⟩, fun s => inv_of_resetControl (resetEvent_resetControl s),
    fun _ h => inv_of_resetControl h⟩

end Sys2Proof.Machine

/-! SUPPORT. The rules that the proofs of the memory family share: the sequencer steps that end at IDLE, what the register
window shows, and what a write does to it. -/

namespace Sys2Proof.Machine

/-! ### The last steps -/

theorem encNext_eq_idle_iff (r : Round) : encNext r = .idle ↔ r = 10 := by
  revert r; decide

theorem decNext_eq_idle_iff (r : Round) : decNext r = .idle ↔ r = 0 := by
  revert r; decide

theorem stepKex_seq_eq_idle_iff (r : Round) (s : State) : (stepKex r s).seq = .idle ↔ r = 10 := by
  by_cases hr : r.val < 10
  · have hne : r ≠ 10 := fun e => by simp [e] at hr
    simp [stepKex_seq_succ (q := ⟨r.val + 1, by omega⟩) rfl s, hne]
  · obtain rfl : r = 10 := Fin.ext (by simp; omega)
    simp [stepKex_seq_last]

/-- A step from a busy state to IDLE is the last one of its command. -/
theorem seqStep_idle_cases {s : State} (hb : s.seq ≠ .idle) (hi : (seqStep s).seq = .idle) :
    s.seq = .kex 10 ∨ s.seq = .enc 10 ∨ s.seq = .dec 0 := by
  cases h : s.seq with
  | idle => exact absurd h hb
  | kex r =>
    rw [seqStep_kex h, stepKex_seq_eq_idle_iff] at hi
    exact .inl (by rw [hi])
  | enc r =>
    rw [seqStep_enc h, stepEnc_seq, encNext_eq_idle_iff] at hi
    exact .inr (.inl (by rw [hi]))
  | dec r =>
    rw [seqStep_dec h, stepDec_seq, decNext_eq_idle_iff] at hi
    exact .inr (.inr (by rw [hi]))

theorem stepKex_kv_last (s : State) : (stepKex 10 s).kv = true := rfl

theorem stepEnc_data_last (s : State) : (stepEnc 10 s).data = encFinal s.rk s.data := rfl

theorem stepDec_data_last (s : State) : (stepDec 0 s).data = decFinal s.rk s.data := rfl

/-! ### What the window shows -/

/-- Bit 0 of STATUS is BUSY (30_encoding.md R106). -/
theorem status_getLsbD_zero (s : State) : s.status.getLsbD 0 = s.busy := by
  cases h : s.busy <;> simp [State.status, flagByte, h]

theorem readValue_status_bit0_of_idle {s : State} (h : s.seq = .idle) : (readValue 0x21#8 s).getLsbD 0 = false := by
  rw [readValue_status, status_getLsbD_zero, (not_busy_iff s).mpr h]

theorem readValue_data_of_idle (i : Fin 16) {s : State} (h : s.seq = .idle) :
    readValue (BitVec.ofNat 8 (0x10 + i.val)) s = s.data[i] :=
  readValue_data i (by rw [h]; rfl)

theorem readValue_rk_of_idle (j : Fin 176) {s : State} (h : s.seq = .idle) :
    readValue (BitVec.ofNat 8 (0x30 + j.val)) s = s.rk[j] :=
  readValue_rk j (by rw [h]; rfl)

/-- Byte i of round key k is byte 16k + i of RK (00_scope.md R9). -/
theorem readValue_roundKey_of_idle (k : Round) (i : Fin 16) {s : State} (h : s.seq = .idle) :
    readValue (BitVec.ofNat 8 (0x30 + 16 * k.val + i.val)) s = (roundKey s.rk k)[i] := by
  have hj := readValue_rk_of_idle ⟨16 * k.val + i.val, by omega⟩ h
  simpa [Nat.add_assoc, roundKey_getElem] using hj

theorem readValue_reserved {off : Byte} (h : windowReg off = .reserved) (s : State) : readValue off s = 0x00 := by
  simp [readValue, windowByte, h]

/-! ### What a write does -/

theorem memWrite_key_of_idle (i : Fin 16) (v : Byte) {s : State} (h : s.seq = .idle) :
    memWrite (BitVec.ofNat 8 i.val) v s = .next (s.setKeyByte i v) := by
  rw [memWrite_key, unlessBusy_idle _ h]

theorem memWrite_data_of_idle (i : Fin 16) (v : Byte) {s : State} (h : s.seq = .idle) :
    memWrite (BitVec.ofNat 8 (0x10 + i.val)) v s = .next (s.setDataByte i v) := by
  rw [memWrite_data, unlessBusy_idle _ h]

theorem writeStatus_congr {v w : Byte} (h : clearsError v = clearsError w) (s : State) :
    writeStatus v s = writeStatus w s := by
  rw [writeStatus, h, writeStatus]

theorem writeStatus_ignored {v : Byte} (h : clearsError v = false) (s : State) : writeStatus v s = s := by
  rw [writeStatus, h]
  rfl

/-- A STATUS write looks at bit 2 only (60_exceptions.md R307). -/
theorem clearsError_and_bit2 (v : Byte) : clearsError (v &&& 0x04) = clearsError v := by
  simp [clearsError]

theorem clearsError_and_other_bits (v : Byte) : clearsError (v &&& 0xFB) = false := by
  simp [clearsError]

/-! ### The obligations of 20_memory.md -/

/-- Settles O32: the step was a last one, and at IDLE no read of STATUS, DATA or RK is a draw. -/
theorem lastStepMakesResultsReadable : Obligations.LastStepMakesResultsReadable := by
  intro s hb hi
  refine ⟨?_, readValue_status_bit0_of_idle hi, fun i => readValue_data_of_idle i hi,
    fun j => readValue_rk_of_idle j hi⟩
  obtain h | h | h := seqStep_idle_cases hb hi
  · exact .inl ⟨h, by rw [seqStep_kex h, stepKex_kv_last]⟩
  · exact .inr (.inl ⟨h, by rw [seqStep_enc h, stepEnc_data_last]⟩)
  · exact .inr (.inr ⟨h, by rw [seqStep_dec h, stepDec_data_last]⟩)

/-- Settles O29, from the reads and the writes of the window at IDLE. -/
theorem windowByteOrder : Obligations.WindowByteOrder := by
  refine ⟨fun s i h => ⟨?_, readValue_data_of_idle i h, fun k => readValue_roundKey_of_idle k i h⟩,
    fun s i v h => ⟨?_, memWrite_data_of_idle i v h⟩⟩
  · rw [Nat.zero_add, readValue_key]
  · rw [Nat.zero_add, memWrite_key_of_idle i v h]
    rfl

/-- Settles O30: the write dispatch ignores every offset from 0x22 on, and a STATUS write looks at bit 2 only. -/
theorem reservedOffsetsAreIgnored : Obligations.ReservedOffsetsAreIgnored := by
  refine ⟨fun s off v h => ⟨readValue_reserved (windowReg_reserved off h) s, memWrite_ignored off v s (by omega)⟩,
    fun s j v => memWrite_ignored _ v s ?_, fun s v => memWrite_ignored _ v s (by decide), fun s v => ⟨?_, ?_⟩⟩
  · rw [BitVec.toNat_ofNat, Nat.mod_eq_of_lt (by omega)]
    omega
  · rw [memWrite_status, memWrite_status, writeStatus_congr (clearsError_and_bit2 v)]
  · rw [memWrite_status, writeStatus_ignored (clearsError_and_other_bits v)]

end Sys2Proof.Machine

/-! SUPPORT. The rules that the proofs of the encoding family share: the opcode map row by row, the decoder, the placed
command write, the fields of STATUS, and the expansions of host program lines. -/

namespace Sys2Proof.Machine

/-! ### The decoder -/

/-- The rows of the opcode map compare all eight bits (30_encoding.md R100) and hold the bytes of the encoder. -/
theorem opcodeRow_of_mem {row : OpcodeRow} (h : row ∈ opcodeTable) :
    row.mask = 0xFF ∧ row.pattern = encode row.instr := by
  revert row; decide

theorem opcodeRow_fits_iff {row : OpcodeRow} (h : row ∈ opcodeTable) (b : Byte) :
    row.fits b = true ↔ b = encode row.instr := by
  obtain ⟨hmask, hpattern⟩ := opcodeRow_of_mem h
  have hall : b &&& 0xFF = b := BitVec.and_allOnes
  rw [OpcodeRow.fits, hmask, hpattern, hall, beq_iff_eq]

@[simp] theorem decode_encode (i : Instr) : decode (encode i) = .ok i := by
  cases i <;> rfl

/-- A byte decodes to no command but the one it spells. -/
theorem decode_eq_ok_iff (b : Byte) (i : Instr) : decode b = .ok i ↔ encode i = b := by
  refine ⟨fun h => ?_, fun h => h ▸ decode_encode i⟩
  unfold decode at h
  split at h <;> rename_i hfind
  · cases h
    have hfits := List.find?_some (p := fun row => OpcodeRow.fits row b) hfind
    exact ((opcodeRow_fits_iff (List.mem_of_find?_eq_some hfind) b).mp hfits).symm
  · cases h

/-- The decoder rejects a byte as a reserved opcode and for no other reason. -/
theorem decode_error {b : Byte} {r : Reject} (h : decode b = .error r) : r = .reservedOpcode b := by
  unfold decode at h
  split at h <;> cases h
  rfl

theorem encode_toNat_lt (i : Instr) : (encode i).toNat < 0x04 := by
  cases i <;> decide

/-- The opcodes 0x04..0xFF are reserved (30_encoding.md R102). -/
theorem decode_reserved {b : Byte} (h : 0x04 ≤ b.toNat) : decode b = .error (.reservedOpcode b) := by
  cases hd : decode b with
  | ok i =>
    rw [decode_eq_ok_iff] at hd
    exact absurd (hd ▸ encode_toNat_lt i) (Nat.not_lt.mpr h)
  | error r => rw [decode_error hd]

theorem decodeBytes_cons {b : Byte} {i : Instr} (h : decode b = .ok i) (rest : List Byte) :
    decodeBytes (b :: rest) = .ok (i, rest) := by
  simp [decodeBytes, h]

theorem decodeBytes_cons_error {b : Byte} {r : Reject} (h : decode b = .error r) (rest : List Byte) :
    decodeBytes (b :: rest) = .error r := by
  simp [decodeBytes, h]

/-- A table word that decodes is the byte of its command. -/
theorem decode_tableByte {nbits w : Nat} {i : Instr} (h : decodeTableWord nbits w = some i) :
    decode (tableByte nbits w) = .ok i := by
  unfold decodeTableWord at h
  split at h
  · cases hd : decode (tableByte nbits w) with
    | ok j =>
      rw [decodeBytes_cons hd] at h
      cases h
      rfl
    | error r =>
      rw [decodeBytes_cons_error hd] at h
      cases h
  · cases h

/-! ### Command writes -/

/-- The placed command write is the next transaction, and nothing of its placing is left after it. -/
theorem step_withCommandWrite (s : State) (v : Byte) : step (withCommandWrite s v) = memWrite 0x20#8 v s := rfl

theorem memWrite_cmd_command {v : Byte} {i : Instr} (h : decode v = .ok i) (s : State) :
    memWrite 0x20#8 v s = exec i s := by
  rw [memWrite_cmd, writeCmd_command h]

theorem memWrite_cmd_reserved_of_idle {v : Byte} {s : State} (hv : 0x04 ≤ v.toNat) (hi : s.seq = .idle) :
    memWrite 0x20#8 v s = .next (raiseError .illegalCmd s) := by
  rw [memWrite_cmd, writeCmd_reserved (decode_reserved hv), unlessBusy_idle _ hi]

theorem memWrite_cmd_reserved_of_busy {v : Byte} {s : State} (hv : 0x04 ≤ v.toNat) (hb : s.seq ≠ .idle) :
    memWrite 0x20#8 v s = .next (raiseError .busy s) := by
  rw [memWrite_cmd, writeCmd_reserved (decode_reserved hv), unlessBusy_busy _ ((busy_iff s).mpr hb)]

/-! ### STATUS -/

theorem Seq.round_le (q : Seq) : q.round ≤ 10 := by
  cases q with
  | idle => exact Nat.zero_le 10
  | kex r => exact Nat.le_of_lt_succ r.isLt
  | enc r => exact Nat.le_of_lt_succ r.isLt
  | dec r => exact Nat.le_of_lt_succ r.isLt

theorem busy_eq_decide (s : State) : s.busy = decide (s.seq ≠ .idle) := by
  rw [Bool.eq_iff_iff, busy_iff, decide_eq_true_iff]

/-- A flag's byte has the flag at bit 0 and nothing above. -/
@[simp] theorem flagByte_getElem (b : Bool) (i : Nat) (h : i < 8) : (flagByte b)[i] = (b && decide (i = 0)) := by
  cases b <;> simp [flagByte, BitVec.getElem_one]

/-- A flag below bit 4 does not reach the high nibble. -/
theorem flagByte_high_nibble (b : Bool) (k : Fin 4) : (flagByte b <<< k.val) >>> 4 = 0x00#8 := by
  revert b k; decide

/-- A number of four bits is moved into the high nibble without a loss. -/
theorem ofNat_high_nibble {n : Nat} (h : n < 16) : ((BitVec.ofNat 8 n <<< 4) >>> 4).toNat = n := by
  simp only [BitVec.toNat_ushiftRight, BitVec.toNat_shiftLeft, BitVec.toNat_ofNat, Nat.shiftLeft_eq,
    Nat.shiftRight_eq_div_pow]
  omega

theorem status_getLsbD_one (s : State) : s.status.getLsbD 1 = s.kv := by
  simp [State.status]

theorem status_getLsbD_two (s : State) : s.status.getLsbD 2 = s.err := by
  simp [State.status]

theorem status_getLsbD_three (s : State) : s.status.getLsbD 3 = false := by
  simp [State.status]

/-- The flags stand below the high nibble, and ROUND fits into it. -/
theorem status_high_nibble (s : State) : (s.status >>> 4).toNat = s.seq.round := by
  have hbusy : flagByte s.busy >>> 4 = 0x00#8 := by simpa using flagByte_high_nibble s.busy 0
  have hkv : (flagByte s.kv <<< 1) >>> 4 = 0x00#8 := flagByte_high_nibble s.kv 1
  have herr : (flagByte s.err <<< 2) >>> 4 = 0x00#8 := flagByte_high_nibble s.err 2
  simp only [State.status, BitVec.ushiftRight_or_distrib, hbusy, hkv, herr, BitVec.or_zero]
  exact ofNat_high_nibble (Nat.lt_of_le_of_lt (Seq.round_le s.seq) (by decide))

theorem readValue_status_of_resetControl {s : State} (h : ResetControl s) : readValue 0x21#8 s = 0x00 := by
  obtain ⟨hseq, hkv, herr, -⟩ := h
  rw [readValue_status, State.status, State.busy, hseq, hkv, herr]
  rfl

/-! ### Host program lines -/

/-- The i-th operation is made of the i-th byte and the offset i places on. -/
theorem perByte_eq_mapIdx (f : Byte → Byte → HostOp) (off : Byte) (l : List Byte) :
    perByte f off l = l.mapIdx fun i v => f (off + BitVec.ofNat 8 i) v := by
  induction l generalizing off with
  | nil => rfl
  | cons v rest ih => simp [perByte, ih, BitVec.ofNat_add, BitVec.add_assoc, BitVec.add_comm 1#8]

/-- A function of the bytes of a block and their indices, in order. -/
theorem map_zipIdx_block {α : Type} (g : Byte × Nat → α) (h : Block) :
    h.toList.zipIdx.map g = List.ofFn fun i : Fin 16 => g (h[i], i.val) := by
  apply List.ext_getElem
  · simp
  · intro i _ _
    rw [List.getElem_ofFn]
    simp

/-- Sixteen transactions at consecutive offsets, in increasing i (30_encoding.md R109). -/
theorem perByte_block (f : Byte → Byte → HostOp) (n : Nat) (h : Block) :
    perByte f (BitVec.ofNat 8 n) h.toList = List.ofFn fun i : Fin 16 => f (BitVec.ofNat 8 (n + i.val)) h[i] := by
  rw [perByte_eq_mapIdx, List.mapIdx_eq_zipIdx_map, map_zipIdx_block]
  simp only [BitVec.ofNat_add]

theorem hostTurn_poll {s : State} {off mask val : Byte} {rest : List HostOp}
    (h : s.env.host = .poll off mask val :: rest) :
    hostTurn s = .next (memRead off (if pollDone mask val (readValue off s) then s.setHost rest else s)) := by
  simp [hostTurn, h]

theorem pollDone_iff (mask val t : Byte) : pollDone mask val t = true ↔ t &&& mask = val := beq_iff_eq

/-- The read of a poll matches: the host goes on. -/
theorem hostTurn_poll_done {s : State} {off mask val : Byte} {rest : List HostOp}
    (h : s.env.host = .poll off mask val :: rest) (hm : readValue off s &&& mask = val) :
    hostTurn s = .next (memRead off (s.setHost rest)) := by
  rw [hostTurn_poll h, if_pos ((pollDone_iff _ _ _).mpr hm)]

/-- The read of a poll does not match: the poll stays the host's next operation. -/
theorem hostTurn_poll_again {s : State} {off mask val : Byte} {rest : List HostOp}
    (h : s.env.host = .poll off mask val :: rest) (hm : readValue off s &&& mask ≠ val) :
    hostTurn s = .next (memRead off s) := by
  rw [hostTurn_poll h, if_neg fun hd => hm ((pollDone_iff _ _ _).mp hd)]

/-! ### The obligations of 30_encoding.md -/

/-- Settles O19: STATUS bit by bit and its high nibble, and every state after reset has the control state of reset. -/
theorem statusByteFields : Obligations.StatusByteFields := by
  refine ⟨fun s => ?_, fun r => ⟨rfl, rfl, rfl⟩, rfl, Seq.round_le, fun s v => ?_,
    fun s => readValue_status_of_resetControl (resetEvent_resetControl s),
    readValue_status_of_resetControl ⟨rfl, rfl, rfl, rfl⟩⟩
  · rw [readValue_status, status_getLsbD_zero, busy_eq_decide]
    exact ⟨rfl, status_getLsbD_one s, status_getLsbD_two s, status_getLsbD_three s, status_high_nibble s⟩
  · rw [memWrite_status]
    rfl

/-- Settles O1: each command's byte decodes to it, the others are reserved, and at IDLE with KV=1 every command is
accepted. -/
theorem opcodeMapAndFirstSteps : Obligations.OpcodeMapAndFirstSteps := by
  refine ⟨decode_encode .nop, decode_encode .expand, decode_encode .encrypt, decode_encode .decrypt,
    fun _ => decode_reserved, fun s hi hk => ⟨⟨s, ?_, hi⟩, ⟨acceptExpand s, ?_, rfl⟩, ⟨acceptEncrypt s, ?_, rfl⟩,
      ⟨acceptDecrypt s, ?_, rfl⟩⟩⟩
  · rw [exec_nop, unlessBusy_idle _ hi, id]
  · rw [exec_expand, unlessBusy_idle _ hi]
  · rw [exec_encrypt, unlessBusy_idle _ hi, requireKey_valid _ hk]
  · rw [exec_decrypt, unlessBusy_idle _ hi, requireKey_valid _ hk]

/-- Settles O2: the decoder rejects the byte, and its write is an error report, which latches only the first error. -/
theorem reservedOpcodesSpellNoCommand : Obligations.ReservedOpcodesSpellNoCommand := by
  intro b hb
  refine ⟨fun i => by simp [decode_reserved hb], fun s => ⟨?_, ?_, ?_, ?_⟩⟩ <;> intro hs he
  · rw [memWrite_cmd_reserved_of_idle hb hs, raiseError_first _ he]
    rfl
  · rw [memWrite_cmd_reserved_of_idle hb hs, raiseError_later _ he]
  · rw [memWrite_cmd_reserved_of_busy hb hs, raiseError_first _ he]
    rfl
  · rw [memWrite_cmd_reserved_of_busy hb hs, raiseError_later _ he]

/-- Settles O3: the decoder reads back what the encoder writes, and a row of the opcode map holds its command's byte. -/
theorem decodeEncodeAgree : Obligations.DecodeEncodeAgree :=
  ⟨fun i rest _ => decodeBytes_cons (decode_encode i) rest, fun b i => (decode_eq_ok_iff b i).mp⟩

/-- Settles O5: the next step is the write of the placed byte, and that write runs the byte's command. -/
theorem fetchWordRunsDecodedCommand : Obligations.FetchWordRunsDecodedCommand := by
  intro s w i h
  calc step (s.withFetchWord 8 w) = memWrite 0x20#8 (tableByte 8 w) s := step_withCommandWrite s _
    _ = exec i s := memWrite_cmd_command (decode_tableByte h) s

/-- Settles O57: the block expansions are sixteen operations at consecutive offsets, and a turn on a poll is one read. -/
theorem pseudoInstructionExpansions : Obligations.PseudoInstructionExpansions := by
  refine ⟨rfl, rfl, rfl, rfl, rfl, rfl, fun h => ⟨?_, ?_, ?_, ?_, fun k => ⟨?_, ?_⟩⟩, ?_⟩
  · exact perByte_block .write 0x00 h
  · exact perByte_block .write 0x10 h
  · exact perByte_block (fun off _ => .read off) 0x10 h
  · exact map_zipIdx_block _ h
  · exact perByte_block (fun off _ => .read off) (0x30 + 16 * k.val) h
  · rw [lineExpects, map_zipIdx_block]
    simp only [roundKeyOffset, BitVec.ofNat_add]
  · intro s off mask val rest hhost
    by_cases hm : readValue off s &&& mask = val
    · exact ⟨_, hostTurn_poll_done hhost hm, rfl, fun _ => rfl, fun hne => absurd hm hne⟩
    · exact ⟨_, hostTurn_poll_again hhost hm, rfl, fun he => absurd he hm, fun _ => rfl⟩

end Sys2Proof.Machine

/-! SUPPORT. GF(2^8) as the model's multiplier computes it: doubling and the products by repeated doubling are linear over xor,
the products commute and associate, and multiplying the polynomials and reducing by 0x11B gives the same products. -/

namespace Sys2Proof.Machine

/-! ### Doubling -/

/-- 40_gf_multiplier.md R139, "Linearity". -/
def XorLinear (f : Byte → Byte) : Prop := ∀ a b : Byte, f (a ^^^ b) = f a ^^^ f b

theorem XorLinear.map_zero {f : Byte → Byte} (h : XorLinear f) : f 0x00 = 0x00 := by
  simpa using h 0x00 0x00

theorem XorLinear.iterate {f : Byte → Byte} (h : XorLinear f) : ∀ i : Nat, XorLinear f^[i]
  | 0 => fun _ _ => rfl
  | i + 1 => fun a b => by
    rw [Function.iterate_succ_apply, h, h.iterate i, ← Function.iterate_succ_apply, ← Function.iterate_succ_apply]

theorem ite_bxor (b c : Bool) (v : Byte) :
    (if b ^^ c then v else 0x00) = (if b then v else 0x00) ^^^ (if c then v else 0x00) := by
  cases b <;> cases c <;> simp

theorem xorLinear_double : XorLinear double := fun a b => by
  simp only [double, BitVec.shiftLeft_xor_distrib, BitVec.getLsbD_xor, ite_bxor]
  ac_rfl

theorem double_toNat (x : Byte) :
    (double x).toNat = (2 * x.toNat) % 256 ^^^ (if x.getLsbD 7 = true then 0x1B else 0x00) := by
  have hshift : (x <<< 1).toNat = (2 * x.toNat) % 256 := by
    rw [BitVec.toNat_shiftLeft, Nat.shiftLeft_eq, Nat.mul_comm]
  rw [double, BitVec.toNat_xor, hshift]
  split <;> rfl

/-! ### The product by repeated doubling -/

/-- What bit `i` of `n` adds to the product by repeated doubling. -/
def doublingTerm (x n : Byte) (i : Nat) : Byte := if n.getLsbD i then double^[i] x else 0x00

/-- The product by repeated doubling is the xor of the eight bits' terms. -/
theorem repeatedDoubling_eq_foldl_xor (x n : Byte) :
    repeatedDoubling x n = (List.range 8).foldl (fun p i => p ^^^ doublingTerm x n i) 0x00 := by
  unfold repeatedDoubling
  congr 1
  funext p i
  unfold doublingTerm
  split <;> simp

theorem foldl_xor_xor (f g : Nat → Byte) : ∀ (l : List Nat) (a b : Byte),
    l.foldl (fun p i => p ^^^ (f i ^^^ g i)) (a ^^^ b) =
      l.foldl (fun p i => p ^^^ f i) a ^^^ l.foldl (fun p i => p ^^^ g i) b
  | [], _, _ => rfl
  | i :: l, a, b => by
    have hhead : (a ^^^ b) ^^^ (f i ^^^ g i) = (a ^^^ f i) ^^^ (b ^^^ g i) := by ac_rfl
    simp only [List.foldl_cons, hhead, foldl_xor_xor f g l]

theorem repeatedDoubling_xor_left (a b n : Byte) :
    repeatedDoubling (a ^^^ b) n = repeatedDoubling a n ^^^ repeatedDoubling b n := by
  have hterm (i : Nat) : doublingTerm (a ^^^ b) n i = doublingTerm a n i ^^^ doublingTerm b n i := by
    unfold doublingTerm
    split
    · exact xorLinear_double.iterate i a b
    · rfl
  simp only [repeatedDoubling_eq_foldl_xor, hterm]
  exact foldl_xor_xor _ _ _ 0x00 0x00

theorem repeatedDoubling_xor_right (x n m : Byte) :
    repeatedDoubling x (n ^^^ m) = repeatedDoubling x n ^^^ repeatedDoubling x m := by
  have hterm (i : Nat) : doublingTerm x (n ^^^ m) i = doublingTerm x n i ^^^ doublingTerm x m i := by
    simp only [doublingTerm, BitVec.getLsbD_xor, ite_bxor]
  simp only [repeatedDoubling_eq_foldl_xor, hterm]
  exact foldl_xor_xor _ _ _ 0x00 0x00

theorem repeatedDoubling_zero_left (n : Byte) : repeatedDoubling 0x00 n = 0x00 :=
  XorLinear.map_zero (f := (repeatedDoubling · n)) fun a b => repeatedDoubling_xor_left a b n

theorem repeatedDoubling_one_left : ∀ n : Byte, repeatedDoubling 0x01 n = n := by decide

/-- A linear map that commutes with doubling commutes with the product by each constant. -/
theorem XorLinear.map_repeatedDoubling {f : Byte → Byte} (h : XorLinear f) (hd : Function.Commute f double) (x n : Byte) :
    f (repeatedDoubling x n) = repeatedDoubling (f x) n := by
  have hterm (i : Nat) : f (doublingTerm x n i) = doublingTerm (f x) n i := by
    unfold doublingTerm
    split
    · exact (hd.iterate_right i).eq x
    · exact h.map_zero
  rw [repeatedDoubling_eq_foldl_xor, repeatedDoubling_eq_foldl_xor]
  calc f ((List.range 8).foldl (fun p i => p ^^^ doublingTerm x n i) 0x00)
      = (List.range 8).foldl (fun p i => p ^^^ doublingTerm (f x) n i) (f 0x00) :=
        (List.foldl_hom f fun p i => by rw [h, hterm]).symm
    _ = _ := by rw [h.map_zero]

/-- Such a map is the product by its value at 0x01. -/
theorem XorLinear.eq_repeatedDoubling {f : Byte → Byte} (h : XorLinear f) (hd : Function.Commute f double) (x : Byte) :
    f x = repeatedDoubling (f 0x01) x := by
  rw [← h.map_repeatedDoubling hd, repeatedDoubling_one_left]

theorem xorLinear_repeatedDoubling (n : Byte) : XorLinear (repeatedDoubling · n) :=
  fun a b => repeatedDoubling_xor_left a b n

theorem repeatedDoubling_commute_double (n : Byte) : Function.Commute (repeatedDoubling · n) double :=
  fun x => (xorLinear_double.map_repeatedDoubling (Function.Commute.refl _) x n).symm

theorem repeatedDoubling_comm (x n : Byte) : repeatedDoubling x n = repeatedDoubling n x := by
  have h := (xorLinear_repeatedDoubling n).eq_repeatedDoubling (repeatedDoubling_commute_double n) x
  rwa [repeatedDoubling_one_left] at h

theorem repeatedDoubling_assoc (x n m : Byte) :
    repeatedDoubling (repeatedDoubling x n) m = repeatedDoubling x (repeatedDoubling n m) := by
  rw [repeatedDoubling_comm x n, repeatedDoubling_comm x]
  exact (xorLinear_repeatedDoubling m).map_repeatedDoubling (repeatedDoubling_commute_double m) n x

/-- A constant with an inverse multiplies as a bijection. -/
theorem bijective_repeatedDoubling {n m : Byte} (h : repeatedDoubling n m = 0x01) :
    Function.Bijective (repeatedDoubling · n) := by
  have hcancel {k l : Byte} (hkl : repeatedDoubling k l = 0x01) (x : Byte) :
      repeatedDoubling (repeatedDoubling x k) l = x := by
    rw [repeatedDoubling_assoc, hkl, repeatedDoubling_comm, repeatedDoubling_one_left]
  exact Function.bijective_iff_has_inverse.2
    ⟨(repeatedDoubling · m), hcancel h, hcancel ((repeatedDoubling_comm m n).trans h)⟩

/-! ### The product of polynomials reduced by 0x11B -/

/-- One step of the reduction: 0x11B, moved up to bit `i`, is xored in where bit `i` is set. -/
def reduceStep (p i : Nat) : Nat := if p.testBit i then p ^^^ (0x11B <<< (i - 8)) else p

theorem polyReduce_eq_foldl (p : Nat) :
    polyReduce p = BitVec.ofNat 8 ([14, 13, 12, 11, 10, 9, 8].foldl reduceStep p) := rfl

theorem reduceStep_xor (p q i : Nat) : reduceStep (p ^^^ q) i = reduceStep p i ^^^ reduceStep q i := by
  unfold reduceStep
  rw [Nat.testBit_xor]
  cases p.testBit i <;> cases q.testBit i <;> simp [Nat.xor_assoc, Nat.xor_comm, Nat.xor_left_comm]

theorem polyReduce_xor (p q : Nat) : polyReduce (p ^^^ q) = polyReduce p ^^^ polyReduce q := by
  simp only [polyReduce_eq_foldl, List.foldl_cons, List.foldl_nil, reduceStep_xor, BitVec.ofNat_xor]

/-- Nothing is left to reduce below the bits that the steps look at. -/
theorem foldl_reduceStep_of_lt {p : Nat} : ∀ {l : List Nat}, (∀ i ∈ l, p < 2 ^ i) → l.foldl reduceStep p = p
  | [], _ => rfl
  | i :: l, h => by
    have hstep : reduceStep p i = p := by simp [reduceStep, Nat.testBit_lt_two_pow (h i List.mem_cons_self)]
    rw [List.foldl_cons, hstep]
    exact foldl_reduceStep_of_lt fun j hj => h j (List.mem_cons_of_mem _ hj)

theorem reduceStep_shiftLeft_one {i : Nat} (hi : 8 ≤ i) (p : Nat) : reduceStep (p <<< 1) (i + 1) = reduceStep p i <<< 1 := by
  have hbit : (p <<< 1).testBit (i + 1) = p.testBit i := by simp
  have hpoly : 0x11B <<< (i + 1 - 8) = (0x11B <<< (i - 8)) <<< 1 := by
    rw [← Nat.shiftLeft_add, Nat.sub_add_comm hi]
  rw [reduceStep, reduceStep, hbit, hpoly]
  split
  · exact (Nat.shiftLeft_xor_distrib ..).symm
  · rfl

/-- The steps move one place up with the polynomial. -/
theorem foldl_reduceStep_shiftLeft_one : ∀ {l : List Nat}, (∀ i ∈ l, 8 ≤ i) → ∀ p : Nat,
    (l.map (· + 1)).foldl reduceStep (p <<< 1) = l.foldl reduceStep p <<< 1
  | [], _, _ => rfl
  | i :: l, h, p => by
    rw [List.map_cons, List.foldl_cons, List.foldl_cons, reduceStep_shiftLeft_one (h i List.mem_cons_self),
      foldl_reduceStep_shiftLeft_one fun j hj => h j (List.mem_cons_of_mem _ hj)]

/-- The last step of the reduction is a doubling. -/
theorem ofNat_reduceStep_shiftLeft_one (p : Nat) :
    BitVec.ofNat 8 (reduceStep (p <<< 1) 8) = double (BitVec.ofNat 8 p) := by
  have hbit : (p <<< 1).testBit 8 = (BitVec.ofNat 8 p).getLsbD 7 := by
    rw [BitVec.getLsbD_ofNat, Nat.testBit_shiftLeft]
    rfl
  have hshift : BitVec.ofNat 8 (p <<< 1) = BitVec.ofNat 8 p <<< 1 := by
    simp [BitVec.toNat_eq, Nat.shiftLeft_eq]
  rw [reduceStep, double, hbit]
  split
  · rw [BitVec.ofNat_xor, hshift]
    rfl
  · rw [hshift]
    exact BitVec.xor_zero.symm

theorem polyReduce_shiftLeft_one {p : Nat} (h : p < 2 ^ 14) : polyReduce (p <<< 1) = double (polyReduce p) := by
  have hmem : ∀ i ∈ [13, 12, 11, 10, 9, 8], 8 ≤ i := by decide
  have hfirst : reduceStep p 14 = p := foldl_reduceStep_of_lt (l := [14]) (by simpa using h)
  calc polyReduce (p <<< 1)
      = BitVec.ofNat 8 (reduceStep (([13, 12, 11, 10, 9, 8].map (· + 1)).foldl reduceStep (p <<< 1)) 8) := rfl
    _ = double (BitVec.ofNat 8 ([13, 12, 11, 10, 9, 8].foldl reduceStep (reduceStep p 14))) := by
      rw [foldl_reduceStep_shiftLeft_one hmem, ofNat_reduceStep_shiftLeft_one, hfirst]
    _ = double (polyReduce p) := rfl

theorem polyReduce_toNat (x : Byte) : polyReduce x.toNat = x := by
  have hmem : ∀ i ∈ [14, 13, 12, 11, 10, 9, 8], 8 ≤ i := by decide
  rw [polyReduce_eq_foldl, foldl_reduceStep_of_lt fun i hi => x.isLt.trans_le (Nat.pow_le_pow_right two_pos (hmem i hi)),
    BitVec.ofNat_toNat, BitVec.setWidth_eq]

theorem polyReduce_toNat_shiftLeft (x : Byte) : ∀ {i : Nat}, i < 8 → polyReduce (x.toNat <<< i) = double^[i] x
  | 0, _ => polyReduce_toNat x
  | i + 1, hi => by
    have hlt : x.toNat <<< i < 2 ^ 14 := calc
      x.toNat <<< i = x.toNat * 2 ^ i := Nat.shiftLeft_eq ..
      _ < 2 ^ 8 * 2 ^ i := Nat.mul_lt_mul_of_pos_right x.isLt (Nat.two_pow_pos i)
      _ = 2 ^ (8 + i) := (Nat.pow_add ..).symm
      _ ≤ 2 ^ 14 := Nat.pow_le_pow_right two_pos (by omega)
    rw [Nat.shiftLeft_add, polyReduce_shiftLeft_one hlt, polyReduce_toNat_shiftLeft x (by omega),
      Function.iterate_succ_apply']

theorem polyReduce_foldl (x y : Byte) : ∀ {l : List Nat}, (∀ i ∈ l, i < 8) → ∀ acc : Nat,
    polyReduce (l.foldl (fun acc i => if y.getLsbD i then acc ^^^ (x.toNat <<< i) else acc) acc) =
      l.foldl (fun p i => if y.getLsbD i then p ^^^ double^[i] x else p) (polyReduce acc)
  | [], _, _ => rfl
  | i :: l, h, acc => by
    have hterm : polyReduce (acc ^^^ (x.toNat <<< i)) = polyReduce acc ^^^ double^[i] x := by
      rw [polyReduce_xor, polyReduce_toNat_shiftLeft x (h i List.mem_cons_self)]
    simp only [List.foldl_cons]
    rw [polyReduce_foldl x y fun j hj => h j (List.mem_cons_of_mem _ hj), apply_ite polyReduce, hterm]

/-- Reducing the whole product and reducing after each doubling are one: both readings of 40_gf_multiplier.md R138 agree. -/
theorem gfProduct_eq_repeatedDoubling (x y : Byte) : gfProduct x y = repeatedDoubling x y :=
  polyReduce_foldl x y (fun _ => List.mem_range.1) 0

/-! ### The six products -/

theorem repeatedDoubling_one (x : Byte) : repeatedDoubling x 1 = x := BitVec.zero_xor

theorem repeatedDoubling_two (x : Byte) : repeatedDoubling x 2 = double x := BitVec.zero_xor

theorem repeatedDoubling_four (x : Byte) : repeatedDoubling x 4 = double2 x := BitVec.zero_xor

theorem repeatedDoubling_eight (x : Byte) : repeatedDoubling x 8 = double3 x := BitVec.zero_xor

theorem mul2_eq_repeatedDoubling (x : Byte) : mul2 x = repeatedDoubling x 2 := (repeatedDoubling_two x).symm

theorem mul3_eq_repeatedDoubling (x : Byte) : mul3 x = repeatedDoubling x 3 := by
  rw [show (3 : Byte) = 2 ^^^ 1 from rfl, repeatedDoubling_xor_right, repeatedDoubling_two, repeatedDoubling_one, mul3]

theorem mul9_eq_repeatedDoubling (x : Byte) : mul9 x = repeatedDoubling x 9 := by
  rw [show (9 : Byte) = 8 ^^^ 1 from rfl, repeatedDoubling_xor_right, repeatedDoubling_eight, repeatedDoubling_one, mul9]

theorem mul11_eq_repeatedDoubling (x : Byte) : mul11 x = repeatedDoubling x 11 := by
  rw [show (11 : Byte) = 8 ^^^ 2 ^^^ 1 from rfl, repeatedDoubling_xor_right, repeatedDoubling_xor_right,
    repeatedDoubling_eight, repeatedDoubling_two, repeatedDoubling_one, mul11]

theorem mul13_eq_repeatedDoubling (x : Byte) : mul13 x = repeatedDoubling x 13 := by
  rw [show (13 : Byte) = 8 ^^^ 4 ^^^ 1 from rfl, repeatedDoubling_xor_right, repeatedDoubling_xor_right,
    repeatedDoubling_eight, repeatedDoubling_four, repeatedDoubling_one, mul13]

theorem mul14_eq_repeatedDoubling (x : Byte) : mul14 x = repeatedDoubling x 14 := by
  rw [show (14 : Byte) = 8 ^^^ 4 ^^^ 2 from rfl, repeatedDoubling_xor_right, repeatedDoubling_xor_right,
    repeatedDoubling_eight, repeatedDoubling_four, repeatedDoubling_two, mul14]

/-- Linearity, zero, one and injectivity of 40_gf_multiplier.md R139 hold of the product by any constant with an inverse. -/
theorem productLaws_of_eq_repeatedDoubling {f : Byte → Byte} {n m : Byte} (hf : ∀ x, f x = repeatedDoubling x n)
    (hinv : repeatedDoubling n m = 0x01) :
    XorLinear f ∧ f 0x00 = 0x00 ∧ f 0x01 = n ∧ Function.Bijective f := by
  obtain rfl : f = (repeatedDoubling · n) := funext hf
  exact ⟨xorLinear_repeatedDoubling n, repeatedDoubling_zero_left n, repeatedDoubling_one_left n,
    bijective_repeatedDoubling hinv⟩

/-! ### The obligations of 40_gf_multiplier.md -/

/-- Settles O38: the six are products by constants with the inverses 0x8D, 0xF6, 0x4F, 0xC0, 0xE1 and 0xE5, and a sum of two
products of `x` is its product by the sum of the constants. -/
theorem productLaws : Obligations.ProductLaws := by
  refine ⟨xorLinear_double, ?_, fun x => ⟨rfl, ?_, ?_, ?_⟩⟩
  · simp only [List.forall_mem_cons]
    exact ⟨productLaws_of_eq_repeatedDoubling mul2_eq_repeatedDoubling (m := 0x8D) (by decide),
      productLaws_of_eq_repeatedDoubling mul3_eq_repeatedDoubling (m := 0xF6) (by decide),
      productLaws_of_eq_repeatedDoubling mul9_eq_repeatedDoubling (m := 0x4F) (by decide),
      productLaws_of_eq_repeatedDoubling mul11_eq_repeatedDoubling (m := 0xC0) (by decide),
      productLaws_of_eq_repeatedDoubling mul13_eq_repeatedDoubling (m := 0xE1) (by decide),
      productLaws_of_eq_repeatedDoubling mul14_eq_repeatedDoubling (m := 0xE5) (by decide),
      List.forall_mem_nil _⟩
  · rw [mul9_eq_repeatedDoubling, mul11_eq_repeatedDoubling, ← repeatedDoubling_xor_right]
    exact repeatedDoubling_two x
  · rw [mul13_eq_repeatedDoubling, mul9_eq_repeatedDoubling, ← repeatedDoubling_xor_right]
    exact repeatedDoubling_four x
  · rw [mul14_eq_repeatedDoubling, mul13_eq_repeatedDoubling, ← repeatedDoubling_xor_right]
    exact (mul3_eq_repeatedDoubling x).symm

/-- Settles O36: the shift of eight bits is the doubled number modulo 256; the listed values are computed. -/
theorem doubleIsTruncatedShift : Obligations.DoubleIsTruncatedShift :=
  ⟨double_toNat, by decide, by decide, by decide, by decide, by decide, by decide⟩

/-- Settles O37: the reduced product of polynomials is the product by repeated doubling, and that gives the six. -/
theorem productsAreFieldProducts : Obligations.ProductsAreFieldProducts := by
  intro x
  simp only [gfProduct_eq_repeatedDoubling]
  have hproducts : mul2 x = repeatedDoubling x 2 ∧ mul3 x = repeatedDoubling x 3 ∧ mul9 x = repeatedDoubling x 9 ∧
      mul11 x = repeatedDoubling x 11 ∧ mul13 x = repeatedDoubling x 13 ∧ mul14 x = repeatedDoubling x 14 :=
    ⟨mul2_eq_repeatedDoubling x, mul3_eq_repeatedDoubling x, mul9_eq_repeatedDoubling x, mul11_eq_repeatedDoubling x,
      mul13_eq_repeatedDoubling x, mul14_eq_repeatedDoubling x⟩
  exact ⟨hproducts, hproducts⟩

end Sys2Proof.Machine

/-! SUPPORT. The S-box ROM: the inverse table undoes the forward table, and the field inverse of a byte is read off the forward
table by undoing the affine map. -/

namespace Sys2Proof.Machine

/-! ### The two tables -/

/-- The one check of R153 that reads the table entries; the rest of the rule follows from it. -/
@[simp] theorem sboxI_sboxF : ∀ x : Byte, sboxI (sboxF x) = x := by decide

/-- A map of the finitely many bytes that is undone from one side is a permutation. -/
theorem bijective_sboxF : Function.Bijective sboxF :=
  Finite.injective_iff_bijective.1 (Function.LeftInverse.injective sboxI_sboxF)

@[simp] theorem sboxF_sboxI : ∀ x : Byte, sboxF (sboxI x) = x :=
  Function.LeftInverse.rightInverse_of_surjective sboxI_sboxF bijective_sboxF.surjective

theorem bijective_sboxI : Function.Bijective sboxI :=
  Function.bijective_iff_has_inverse.2 ⟨sboxF, sboxF_sboxI, sboxI_sboxF⟩

/-! ### The affine map and the field inverse -/

/-- The inverse of the affine map of 41_sbox_rom.md R154. -/
def sboxAffineInverse (b : Byte) : Byte := b.rotateLeft 1 ^^^ b.rotateLeft 3 ^^^ b.rotateLeft 6 ^^^ 0x05

theorem sboxAffine_sboxAffineInverse : ∀ b : Byte, sboxAffine (sboxAffineInverse b) = b := by decide

/-- The table's entry at a nonzero byte, the affine map undone, is the byte's inverse in GF(2^8). -/
theorem repeatedDoubling_sboxAffineInverse_sboxF :
    ∀ x : Byte, x ≠ 0x00 → repeatedDoubling x (sboxAffineInverse (sboxF x)) = 0x01 := by decide

/-! ### The obligations of 41_sbox_rom.md -/

/-- Settles O39: the inverse table undoes the forward table, and the bytes are finite, so both are permutations and each undoes
the other. -/
theorem sboxTablesAreInversePermutations : Obligations.SboxTablesAreInversePermutations :=
  ⟨bijective_sboxF, bijective_sboxI, fun x => ⟨sboxI_sboxF x, sboxF_sboxI x⟩⟩

/-- Settles O40: the inverse of a nonzero byte is the table's entry with the affine map undone, so its affine map is the entry. -/
theorem sboxIsAffineOfFieldInverse : Obligations.SboxIsAffineOfFieldInverse := by
  refine ⟨by decide, fun x hx => ⟨sboxAffineInverse (sboxF x), ?_, ?_⟩⟩
  · rw [gfProduct_eq_repeatedDoubling]
    exact repeatedDoubling_sboxAffineInverse_sboxF x hx
  · exact (sboxAffine_sboxAffineInverse (sboxF x)).symm

end Sys2Proof.Machine

/-! SUPPORT. The key expander: the words of the schedule round by round, the steps of EXPAND with their frames, and how far
EXPAND has come after each of them. -/

namespace Sys2Proof.Machine

/-! ### The words of the schedule -/

/-- Word `4k + j` of the schedule is word j of round key k (42_key_expander.md R171). -/
theorem scheduleWord_eq_blockWord (rk : RoundKeys) {n : Fin 44} {k : Round} {j : Fin 4} (h : n.val = 4 * k.val + j.val) :
    scheduleWord rk n = blockWord (roundKey rk k) j := by
  have hidx : 4 * n.val = 16 * k.val + 4 * j.val := by omega
  simp [scheduleWord, blockWord, roundKey_getElem, hidx, Nat.add_assoc]

theorem scheduleWord_expandKey (key : Block) {n : Fin 44} {k : Round} {j : Fin 4} (h : n.val = 4 * k.val + j.val) :
    scheduleWord (expandKey key) n = blockWord (roundKeyOf key k.val) j := by
  rw [scheduleWord_eq_blockWord _ h, roundKey_expandKey]

@[simp] theorem blockWord_nextRoundKey (rc : Byte) (prev : Block) (j : Fin 4) :
    blockWord (nextRoundKey rc prev) j = nextWords rc prev j :=
  blockWord_blockOfWords _ j

/-- The first word of the next round key (42_key_expander.md R176). -/
theorem nextWords_zero (rc : Byte) (prev : Block) :
    nextWords rc prev 0 = wordXor (scheduleCore rc (blockWord prev 3)) (blockWord prev 0) := rfl

/-- The other words of the next round key (42_key_expander.md R177). -/
theorem nextWords_succ (rc : Byte) (prev : Block) {i j : Fin 4} (h : i.val + 1 = j.val) :
    nextWords rc prev j = wordXor (nextWords rc prev i) (blockWord prev j) := by
  match i, j, h with
  | 0, 1, _ => rfl
  | 1, 2, _ => rfl
  | 2, 3, _ => rfl

/-- Word j of round key r + 1 is made from round key r. -/
theorem scheduleWord_expandKey_succ (key : Block) {n : Fin 44} {p : Nat} {j : Fin 4} (h : n.val = 4 * (p + 1) + j.val) :
    scheduleWord (expandKey key) n = nextWords (rcon (p + 1)) (roundKeyOf key p) j := by
  have hk : p + 1 < 11 := by omega
  rw [scheduleWord_expandKey key (k := ⟨p + 1, hk⟩) h]
  exact blockWord_nextRoundKey _ _ j

/-- The first word of a round, from the last and the first word of the round before (42_key_expander.md R176). -/
theorem scheduleWord_first (key : Block) {r : Nat} {n m p : Fin 44} (hr : 1 ≤ r) (hn : n.val = 4 * r)
    (hm : m.val + 1 = n.val) (hp : p.val + 4 = n.val) :
    scheduleWord (expandKey key) n =
      wordXor (scheduleCore (rcon r) (scheduleWord (expandKey key) m)) (scheduleWord (expandKey key) p) := by
  obtain ⟨q, rfl⟩ : ∃ q, r = q + 1 := ⟨r - 1, by omega⟩
  have hq : q < 11 := by omega
  rw [scheduleWord_expandKey_succ key (p := q) (j := 0) (by simpa using hn),
    scheduleWord_expandKey key (n := m) (k := ⟨q, hq⟩) (j := 3) (by simp; omega),
    scheduleWord_expandKey key (n := p) (k := ⟨q, hq⟩) (j := 0) (by simp; omega), nextWords_zero]

/-- Every other word of a round, from the word before it and the one in its place a round before
(42_key_expander.md R177). -/
theorem scheduleWord_later (key : Block) {n m p : Fin 44} (hn : n.val % 4 ≠ 0) (hm : m.val + 1 = n.val)
    (hp : p.val + 4 = n.val) :
    scheduleWord (expandKey key) n =
      wordXor (scheduleWord (expandKey key) m) (scheduleWord (expandKey key) p) := by
  have hq : p.val / 4 < 11 := by omega
  rw [scheduleWord_expandKey_succ key (n := n) (p := p.val / 4) (j := ⟨n.val % 4, by omega⟩) (by dsimp only; omega),
    scheduleWord_expandKey_succ key (n := m) (p := p.val / 4) (j := ⟨m.val % 4, by omega⟩) (by dsimp only; omega),
    scheduleWord_expandKey key (n := p) (k := ⟨p.val / 4, hq⟩) (j := ⟨n.val % 4, by omega⟩) (by dsimp only; omega)]
  exact nextWords_succ _ _ (by dsimp only; omega)

/-! ### The steps of EXPAND -/

theorem setRk_setRcon_setSeq (s : State) (x : RoundKeys) (c : Byte) (q : Seq) :
    ((s.setRk x).setRcon c).setSeq q = { s with rk := x, rcon := c, seq := q } := rfl

theorem setRk_setRcon_setSeq_setKv (s : State) (x : RoundKeys) (c : Byte) (q : Seq) (v : Bool) :
    (((s.setRk x).setRcon c).setSeq q).setKv v = { s with rk := x, rcon := c, kv := v, seq := q } := rfl

/-- The last change of RK, RCON and seq wins. -/
theorem setRk_setRcon_setSeq_congr {s t : State} {x : RoundKeys} {c : Byte} {q : Seq}
    (h : t = ((s.setRk x).setRcon c).setSeq q) (x' : RoundKeys) (c' : Byte) (q' : Seq) :
    ((t.setRk x').setRcon c').setSeq q' = ((s.setRk x').setRcon c').setSeq q' := by
  rw [h]; rfl

/-- KEX(r) for r = 1..10, from the round key before. -/
theorem stepKex_succ {p r : Round} (h : p.val + 1 = r.val) (s : State) :
    stepKex r s =
      kexNext r ((s.setRk (withRoundKey s.rk r (nextRoundKey s.rcon (roundKey s.rk p)))).setRcon (double s.rcon)) := by
  have hr : r ≠ 0 := fun e => by simp [e] at h
  have hp : (⟨r.val - 1, by omega⟩ : Round) = p := Fin.ext (by simp [← h])
  rw [stepKex_ne_zero hr, stepKexRound, hp]

theorem kexNext_last (s : State) : kexNext 10 s = (s.setSeq .idle).setKv true := rfl

/-- Before KEX(10) a step sets RK, RCON and seq only. -/
theorem stepKex_frame_succ {r q : Round} (h : q.val = r.val + 1) (s : State) :
    stepKex r s = ((s.setRk (stepKex r s).rk).setRcon (stepKex r s).rcon).setSeq (.kex q) := by
  conv_lhs => rw [stepKex_frame, stepKex_kv_of_lt (by omega), stepKex_seq_succ h]
  rfl

theorem stepKex_frame_last (s : State) :
    stepKex 10 s = (((s.setRk (stepKex 10 s).rk).setRcon (stepKex 10 s).rcon).setSeq .idle).setKv true := by
  conv_lhs => rw [stepKex_frame, stepKex_kv_last, stepKex_seq_last]
  rfl

/-! ### How far EXPAND has come -/

/-- `t` is at KEX(r) of an EXPAND that was at KEX(0) in `s`: nothing but RK, RCON and seq has changed, round keys 0..r-1 of KEY
are built, and RCON is the constant of this step. -/
structure ExpandReached (s : State) (r : Round) (t : State) : Prop where
  frame : t = ((s.setRk t.rk).setRcon t.rcon).setSeq (.kex r)
  builtBelow : BuiltBelow t r.val
  rconReady : RconReady t r.val

theorem ExpandReached.seq_eq {s t : State} {r : Round} (h : ExpandReached s r t) : t.seq = .kex r := by
  rw [h.frame]; rfl

theorem expandReached_zero {s : State} (h : s.seq = .kex 0) : ExpandReached s 0 s := by
  refine ⟨?_, fun k hk => absurd hk (Nat.not_lt_zero _), fun h0 => absurd h0 (Nat.lt_irrefl _)⟩
  rw [← h]; rfl

theorem ExpandReached.succ {s t : State} {r q : Round} (h : ExpandReached s r t) (hq : q.val = r.val + 1) :
    ExpandReached s q (seqStep t) := by
  rw [seqStep_kex h.seq_eq]
  refine ⟨?_, ?_, ?_⟩
  · exact (stepKex_frame_succ hq t).trans (setRk_setRcon_setSeq_congr h.frame _ _ _)
  · rw [hq]; exact stepKex_builtBelow h.builtBelow h.rconReady
  · rw [hq]; exact stepKex_rconReady h.rconReady

theorem expandReached_iterate {s : State} (h : s.seq = .kex 0) (n : Nat) (hn : n < 11) :
    ExpandReached s ⟨n, hn⟩ (seqStep^[n] s) := by
  induction n with
  | zero => exact expandReached_zero h
  | succ n ih =>
    rw [Function.iterate_succ_apply']
    exact (ih (by omega)).succ rfl

/-- KEX(10) completes the schedule of KEY. -/
theorem ExpandReached.last {s t : State} (h : ExpandReached s 10 t) :
    seqStep t = (((s.setRk (expandKey s.key)).setRcon (seqStep t).rcon).setSeq .idle).setKv true := by
  rw [seqStep_kex h.seq_eq]
  have hkey : t.key = s.key := by rw [h.frame]; rfl
  have hrk : (stepKex 10 t).rk = expandKey s.key := by
    rw [rk_eq_expandKey_of_builtBelow (stepKex_builtBelow h.builtBelow h.rconReady), stepKex_key, hkey]
  calc stepKex 10 t
      = (((t.setRk (stepKex 10 t).rk).setRcon (stepKex 10 t).rcon).setSeq .idle).setKv true := stepKex_frame_last t
    _ = (((s.setRk (expandKey s.key)).setRcon (stepKex 10 t).rcon).setSeq .idle).setKv true := by
      rw [hrk, setRk_setRcon_setSeq_congr h.frame]

/-! ### The obligations of 42_key_expander.md -/

/-- Settles O13: each step by its equation, and the run from KEX(0) by how far EXPAND has come after each step. -/
theorem expandStepByStep : Obligations.ExpandStepByStep := by
  refine ⟨?first, ?round, ?run⟩
  case first =>
    intro s h
    refine ⟨withRoundKey s.rk 0 s.key, roundKey_withRoundKey_same _ _ _, fun k hk => roundKey_withRoundKey_other _ _ hk, ?_⟩
    rw [seqStep_kex h, stepKex_zero, stepKex0, setRk_setRcon_setSeq]
  case round =>
    intro s p r hp h
    refine ⟨withRoundKey s.rk r (nextRoundKey s.rcon (roundKey s.rk p)), blockWord (roundKey s.rk p),
      nextWords s.rcon (roundKey s.rk p), fun _ => rfl, nextWords_zero _ _, nextWords_succ _ _ rfl, nextWords_succ _ _ rfl,
      nextWords_succ _ _ rfl, fun j => ?_, fun k hk => roundKey_withRoundKey_other _ _ hk, fun q hq => ?_, ?_⟩
    · rw [roundKey_withRoundKey_same, blockWord_nextRoundKey]
    · rw [seqStep_kex h, stepKex_succ hp, kexNext_succ hq, setRk_setRcon_setSeq]
    · rintro rfl
      rw [seqStep_kex h, stepKex_succ hp, kexNext_last, setRk_setRcon_setSeq_setKv]
  case run =>
    intro s h
    refine ⟨fun r hr => ?_, (seqStep (seqStep^[10] s)).rcon, ?_⟩
    · have hreached := expandReached_iterate h r.val r.isLt
      exact ⟨hreached.seq_eq, hreached.rconReady hr⟩
    · rw [Function.iterate_succ_apply' seqStep 10, ← setRk_setRcon_setSeq_setKv]
      exact (expandReached_iterate h 10 (by decide)).last

/-- Settles O42, from the words of each round key and of the one before it. -/
theorem keyScheduleRecurrence : Obligations.KeyScheduleRecurrence := by
  refine ⟨fun k => ⟨?_, fun j n hn => ?_, fun r n m p hr hn hm hp => ?_, fun n m p hn hm hp => ?_⟩, by decide, ?_⟩
  · exact roundKey_expandKey k 0
  · exact scheduleWord_expandKey k (k := 0) (by simpa using hn)
  · exact ⟨_, rfl, scheduleWord_first k hr hn hm hp⟩
  · exact scheduleWord_later k hn hm hp
  · rw [roundKey_expandKey]
    decide

/-- Settles O41: each round constant is the double of the one before; the listed values are computed. -/
theorem rotWordSubWordAndRcon : Obligations.RotWordSubWordAndRcon :=
  ⟨fun _ _ _ _ => ⟨rfl, rfl⟩, fun _ => rfl, by decide, by decide, by decide, rfl, fun _ hr _ => rcon_succ hr, by decide⟩

end Sys2Proof.Machine

/-! SUPPORT. The encryption engine: its primitives byte by byte, row by row and column by column, the rounds of Encrypt, the steps
of ENCRYPT with their frames, and the trace of the source's known answer. -/

namespace Sys2Proof.Machine

/-! ### SubBytes -/

theorem subBytes_getElem (b : Block) (i : Nat) (h : i < 16) : (subBytes b)[i] = sboxF b[i] := by
  simp [subBytes]

theorem invSubBytes_getElem (b : Block) (i : Nat) (h : i < 16) : (invSubBytes b)[i] = sboxI b[i] := by
  simp [invSubBytes]

theorem invSubBytes_subBytes (b : Block) : invSubBytes (subBytes b) = b :=
  Vector.ext fun i h => by rw [invSubBytes_getElem, subBytes_getElem, sboxI_sboxF]

theorem subBytes_invSubBytes (b : Block) : subBytes (invSubBytes b) = b :=
  Vector.ext fun i h => by rw [subBytes_getElem, invSubBytes_getElem, sboxF_sboxI]

theorem bijective_subBytes : Function.Bijective subBytes :=
  Function.bijective_iff_has_inverse.2 ⟨invSubBytes, invSubBytes_subBytes, subBytes_invSubBytes⟩

/-! ### ShiftRows, in the matrix view -/

/-- A block is made of its own rows and columns. -/
theorem blockOfMatrix_blockAt (b : Block) : blockOfMatrix (blockAt b) = b :=
  Vector.ext fun i h => by simp [blockOfMatrix, blockAt, Nat.mod_add_div]

theorem block_ext_blockAt {a b : Block} (h : ∀ r c : Fin 4, blockAt a r c = blockAt b r c) : a = b := by
  rw [← blockOfMatrix_blockAt a, ← blockOfMatrix_blockAt b, funext₂ h]

theorem blockAt_shiftRows (b : Block) {r c d : Fin 4} (h : d.val = (c.val + r.val) % 4) :
    blockAt (shiftRows b) r c = blockAt b r d := by
  rw [shiftRows, blockAt_blockOfMatrix]
  exact congrArg (blockAt b r) (Fin.ext h.symm)

theorem shiftRows_of_constant_rows {b : Block} (h : ∀ r c d : Fin 4, blockAt b r c = blockAt b r d) : shiftRows b = b :=
  block_ext_blockAt fun r c => (blockAt_shiftRows b (d := c + r) rfl).trans (h r _ c)

/-- ShiftRows n times rotates row r left by n·r. -/
theorem blockAt_iterate_shiftRows (n : Nat) (b : Block) {r c d : Fin 4} (h : d.val = (c.val + n * r.val) % 4) :
    blockAt (shiftRows^[n] b) r c = blockAt b r d := by
  induction n generalizing b d with
  | zero => rw [Function.iterate_zero_apply, Fin.ext (a := d) (b := c) (by omega)]
  | succ n ih =>
    rw [Function.iterate_succ_apply, ih (shiftRows b) (d := ⟨(c.val + n * r.val) % 4, by omega⟩) rfl]
    exact blockAt_shiftRows b (by rw [h, Nat.mod_add_mod, Nat.succ_mul, Nat.add_assoc])

theorem shiftRows_four_times (b : Block) : shiftRows^[4] b = b :=
  block_ext_blockAt fun r c => blockAt_iterate_shiftRows 4 b (by omega)

/-- The table P of 43_encrypt_engine.md R202. -/
theorem shiftRows_toList (b : Block) :
    (shiftRows b).toList =
      [b[0], b[5], b[10], b[15], b[4], b[9], b[14], b[3], b[8], b[13], b[2], b[7], b[12], b[1], b[6], b[11]] := by
  simp [shiftRows, blockOfMatrix, blockAt, Vector.toList_ofFn, List.ofFn_succ]

/-! ### MixColumns, column by column -/

theorem xorLinear_mul2 : XorLinear mul2 := xorLinear_double

theorem xorLinear_mul3 : XorLinear mul3 := funext mul3_eq_repeatedDoubling ▸ xorLinear_repeatedDoubling 3

theorem mul2_xor_mul3 (x : Byte) : mul2 x ^^^ mul3 x = x := by
  rw [mul3, mul2, ← BitVec.xor_assoc, BitVec.xor_self, BitVec.zero_xor]

/-- The coefficients 2, 3, 1, 1 of every equation add up to 1. -/
theorem mixColumn_constant (v : Byte) : mixColumn ⟨v, v, v, v⟩ = ⟨v, v, v, v⟩ := by
  have h : mul3 v ^^^ mul2 v = v := by rw [BitVec.xor_comm, mul2_xor_mul3]
  simp [mixColumn, BitVec.xor_assoc, mul2_xor_mul3, h]

theorem mixColumn_wordXor (u v : Word) : mixColumn (wordXor u v) = wordXor (mixColumn u) (mixColumn v) := by
  simp only [mixColumn, wordXor, xorLinear_mul2 _ _, xorLinear_mul3 _ _, Word.mk.injEq]
  refine ⟨?_, ?_, ?_, ?_⟩ <;> ac_rfl

theorem block_ext_blockWord {a b : Block} (h : ∀ j : Fin 4, blockWord a j = blockWord b j) : a = b := by
  rw [← blockOfWords_blockWord a, ← blockOfWords_blockWord b, funext h]

theorem blockWord_blockXor (a b : Block) (j : Fin 4) :
    blockWord (blockXor a b) j = wordXor (blockWord a j) (blockWord b j) := by
  simp only [blockWord, wordXor, blockXor_getElem]

theorem blockWord_mixColumns (b : Block) (c : Fin 4) : blockWord (mixColumns b) c = mixColumn (blockWord b c) :=
  blockWord_blockOfWords _ c

theorem mixColumns_blockXor (a b : Block) : mixColumns (blockXor a b) = blockXor (mixColumns a) (mixColumns b) :=
  block_ext_blockWord fun j => by
    simp only [blockWord_mixColumns, blockWord_blockXor, mixColumn_wordXor]

/-! ### AddRoundKey -/

theorem blockXor_self (b : Block) : blockXor b b = Vector.replicate 16 0x00 :=
  Vector.ext fun i h => by simp [blockXor_getElem]

theorem blockXor_zero (b : Block) : blockXor b (Vector.replicate 16 0x00) = b :=
  Vector.ext fun i h => by simp [blockXor_getElem]

theorem addRoundKey_getElem (rk : RoundKeys) (b : Block) (k : Round) (i : Nat) (h : i < 16) :
    (addRoundKey rk b k)[i] = b[i] ^^^ rk[16 * k.val + i] := by
  rw [addRoundKey, blockXor_getElem, roundKey_getElem]

theorem addRoundKey_addRoundKey (rk : RoundKeys) (b : Block) (k : Round) : addRoundKey rk (addRoundKey rk b k) k = b :=
  Vector.ext fun i h => by
    rw [addRoundKey_getElem, addRoundKey_getElem, BitVec.xor_assoc, BitVec.xor_self, BitVec.xor_zero]

/-! ### The rounds of Encrypt -/

/-- The block after round n of encrypting p, n = 0..9 (43_encrypt_engine.md R209). -/
def encryptRounds (rk : RoundKeys) (p : Block) : Nat → Block
  | 0 => encInit rk p
  | n + 1 => encRound rk (encryptRounds rk p n) (Fin.ofNat 11 (n + 1))

theorem encryptRounds_succ (rk : RoundKeys) (p : Block) {q r : Round} (h : q.val + 1 = r.val) :
    encryptRounds rk p r.val = encRound rk (encryptRounds rk p q.val) r := by
  rw [← h, encryptRounds, h, Fin.ofNat_val_eq_self]

theorem encrypt_eq_encFinal (rk : RoundKeys) (p : Block) : encrypt rk p = encFinal rk (encryptRounds rk p 9) := rfl

/-! ### The steps of ENCRYPT -/

theorem encData_first (rk : RoundKeys) (b : Block) : encData rk b 0 = encInit rk b := rfl

theorem encData_last (rk : RoundKeys) (b : Block) : encData rk b 10 = encFinal rk b := rfl

theorem encData_round (rk : RoundKeys) (b : Block) {r : Round} (h1 : 1 ≤ r.val) (h9 : r.val ≤ 9) :
    encData rk b r = encRound rk b r := by
  have h0 : r ≠ 0 := fun e => by simp [e] at h1
  have h10 : r ≠ 10 := fun e => by simp [e] at h9
  rw [encData, if_neg h0, if_neg h10]

theorem seqStep_enc_eq {s : State} {r : Round} (h : s.seq = .enc r) :
    seqStep s = { s with data := encData s.rk s.data r, seq := encNext r } := seqStep_enc h

theorem seqStep_enc_first {s : State} (h : s.seq = .enc 0) :
    seqStep s = { s with data := encInit s.rk s.data, seq := .enc 1 } := by
  rw [seqStep_enc_eq h, encData_first, encNext_succ (q := 1) rfl]

theorem seqStep_enc_round {s : State} {r q : Round} (hr : 1 ≤ r.val) (hq : q.val = r.val + 1) (h : s.seq = .enc r) :
    seqStep s = { s with data := encRound s.rk s.data r, seq := .enc q } := by
  rw [seqStep_enc_eq h, encData_round _ _ hr (by omega), encNext_succ hq]

theorem seqStep_enc_last {s : State} (h : s.seq = .enc 10) :
    seqStep s = { s with data := encFinal s.rk s.data, seq := .idle } := by
  rw [seqStep_enc_eq h, encData_last, encNext_last]

/-- After ENC(n), n = 0..9: DATA is the block after round n, and nothing else but seq has changed. -/
theorem iterate_seqStep_enc {s : State} (h : s.seq = .enc 0) (n : Nat) (hn : n < 10) :
    seqStep^[n + 1] s = { s with data := encryptRounds s.rk s.data n, seq := .enc ⟨n + 1, by omega⟩ } := by
  induction n with
  | zero => exact seqStep_enc_first h
  | succ n ih =>
    have hround := encryptRounds_succ s.rk s.data (q := ⟨n, by omega⟩) (r := ⟨n + 1, by omega⟩) rfl
    rw [Function.iterate_succ_apply', ih (by omega),
      seqStep_enc_round (r := ⟨n + 1, by omega⟩) (q := ⟨n + 1 + 1, by omega⟩) (Nat.succ_pos n) rfl rfl, hround]

/-- The eleven steps from ENC(0) encrypt DATA. -/
theorem iterate_seqStep_encrypt {s : State} (h : s.seq = .enc 0) :
    seqStep^[11] s = { s with data := encrypt s.rk s.data, seq := .idle } := by
  rw [Function.iterate_succ_apply', iterate_seqStep_enc h 9 (by decide), seqStep_enc_last rfl, encrypt_eq_encFinal]

/-! ### The source's known answer, round by round -/

/-- The key of the source's known answer (95_test_vectors.md W1). -/
def sourceKey : Block := hexBlock 0x000102030405060708090a0b0c0d0e0f

/-- The schedule of the source's key (95_test_vectors.md V-KEX-1). -/
def sourceRoundKey (k : Round) : Block :=
  hexBlock #v[0x000102030405060708090a0b0c0d0e0f, 0xd6aa74fdd2af72fadaa678f1d6ab76fe,
    0xb692cf0b643dbdf1be9bc5006830b3fe, 0xb6ff744ed2c2c9bf6c590cbf0469bf41, 0x47f7f7bc95353e03f96c32bcfd058dfd,
    0x3caaa3e8a99f9deb50f3af57adf622aa, 0x5e390f7df7a69296a7553dc10aa31f6b, 0x14f9701ae35fe28c440adf4d4ea9c026,
    0x47438735a41c65b9e016baf4aebf7ad2, 0x549932d1f08557681093ed9cbe2c974e, 0x13111d7fe3944a17f307a78b4d2b30c5][k]

/-- Each row of the table comes from the row before it, so none is computed from the key anew. -/
theorem nextRoundKey_sourceRoundKey :
    ∀ p r : Round, p.val + 1 = r.val → nextRoundKey (rcon r.val) (sourceRoundKey p) = sourceRoundKey r := by decide

theorem roundKey_expandKey_sourceKey (k : Round) : roundKey (expandKey sourceKey) k = sourceRoundKey k := by
  rw [roundKey_expandKey]
  obtain ⟨k, hk⟩ := k
  induction k with
  | zero => rfl
  | succ k ih =>
    rw [← nextRoundKey_sourceRoundKey ⟨k, by omega⟩ _ rfl, ← ih]
    rfl

theorem addRoundKey_expandKey_sourceKey (b : Block) (k : Round) :
    addRoundKey (expandKey sourceKey) b k = blockXor b (sourceRoundKey k) := by
  rw [addRoundKey, roundKey_expandKey_sourceKey]

/-- The plaintext of the source's known answer (95_test_vectors.md W1). -/
def sourcePlaintext : Block := hexBlock 0x00112233445566778899aabbccddeeff

/-- DATA after each step ENC(r) of the source's known answer (95_test_vectors.md V-ENC-1). -/
def sourceBlock (r : Round) : Block :=
  hexBlock #v[0x00102030405060708090a0b0c0d0e0f0, 0x89d810e8855ace682d1843d8cb128fe4,
    0x4915598f55e5d7a0daca94fa1f0a63f7, 0xfa636a2825b339c940668a3157244d17, 0x247240236966b3fa6ed2753288425b6c,
    0xc81677bc9b7ac93b25027992b0261996, 0xc62fe109f75eedc3cc79395d84f9cf5d, 0xd1876c0f79c4300ab45594add66ff41f,
    0xfde3bad205e5d0d73547964ef1fe37f1, 0xbd6e7c3df2b5779e0b61216e8b10b689, 0x69c4e0d86a7b0430d8cdb78070b4c55a][r]

theorem addRoundKey_sourcePlaintext : addRoundKey (expandKey sourceKey) sourcePlaintext 0 = sourceBlock 0 := by
  rw [addRoundKey_expandKey_sourceKey]
  decide

theorem encRound_sourceBlock (q r : Round) (h : q.val + 1 = r.val) (h9 : r.val ≤ 9) :
    encRound (expandKey sourceKey) (sourceBlock q) r = sourceBlock r := by
  rw [encRound, addRoundKey_expandKey_sourceKey]
  revert q r
  decide

theorem encFinal_sourceBlock : encFinal (expandKey sourceKey) (sourceBlock 9) = sourceBlock 10 := by
  rw [encFinal, addRoundKey_expandKey_sourceKey]
  decide

theorem decFirst_sourceBlock : decFirst (expandKey sourceKey) (sourceBlock 10) = sourceBlock 9 := by
  rw [decFirst, addRoundKey_expandKey_sourceKey]
  decide

theorem encryptRounds_source (n : Nat) (hn : n < 10) :
    encryptRounds (expandKey sourceKey) sourcePlaintext n = sourceBlock ⟨n, by omega⟩ := by
  induction n with
  | zero => exact addRoundKey_sourcePlaintext
  | succ n ih =>
    rw [encryptRounds_succ _ _ (q := ⟨n, by omega⟩) (r := ⟨n + 1, by omega⟩) rfl, ih (by omega),
      encRound_sourceBlock _ _ rfl (Nat.le_of_lt_succ hn)]

theorem encrypt_sourcePlaintext : encrypt (expandKey sourceKey) sourcePlaintext = sourceBlock 10 := by
  rw [encrypt_eq_encFinal, encryptRounds_source 9 (by decide)]
  exact encFinal_sourceBlock

/-! ### The obligations of 43_encrypt_engine.md -/

/-- Settles O14: each step by its equation, and the run from ENC(0) by the block after each round. -/
theorem encryptStepByStep : Obligations.EncryptStepByStep :=
  ⟨fun _ h => seqStep_enc_first h, fun _ _ _ hr hq h => seqStep_enc_round hr hq h, fun _ h => seqStep_enc_last h,
    fun _ h => iterate_seqStep_encrypt h⟩

/-- Settles O43: InvSubBytes undoes SubBytes from both sides, and n times ShiftRows moves row r by n·r columns. -/
theorem subBytesAndShiftRows : Obligations.SubBytesAndShiftRows :=
  ⟨fun b i => subBytes_getElem b i.val i.isLt, bijective_subBytes, by decide, by decide,
    fun b _ _ _ h => blockAt_shiftRows b h, shiftRows_toList, fun _ h => shiftRows_of_constant_rows h,
    shiftRows_four_times, by decide⟩

/-- Settles O44: the columns are mixed apart, so linearity of MixColumns is that of the products by 2 and 3. -/
theorem mixColumnsEquations : Obligations.MixColumnsEquations :=
  ⟨fun _ _ _ _ => rfl, mixColumn_constant, by decide, by decide, blockWord_mixColumns, mixColumns_blockXor, by decide⟩

/-- Settles O45, byte by byte from xor's laws. -/
theorem addRoundKeyXorsRoundKey : Obligations.AddRoundKeyXorsRoundKey := by
  refine ⟨fun rk b k i j hj => ?_, addRoundKey_addRoundKey, fun rk b k hk => ?_, fun rk k => ?_, ?_⟩
  · rw [Fin.ext (a := j) (b := ⟨16 * k.val + i.val, by omega⟩) hj]
    exact addRoundKey_getElem rk b k i.val i.isLt
  · rw [addRoundKey, hk, blockXor_zero]
  · rw [addRoundKey, blockXor_self]
  · exact addRoundKey_sourcePlaintext

/-- Settles O50: the compositions are the rounds' definitions, and the examples are rows of the source's trace. -/
theorem roundsFromPrimitives : Obligations.RoundsFromPrimitives := by
  refine ⟨fun rk b => ⟨rfl, rfl, rfl, rfl, fun _ => rfl⟩, ?_⟩
  rintro _ rfl
  exact ⟨addRoundKey_sourcePlaintext, encRound_sourceBlock 0 1 rfl (by decide), encFinal_sourceBlock, decFirst_sourceBlock⟩

/-- Settles O51: the intermediate blocks are those after each round, and the known answer is the last row of the source's
trace. -/
theorem encryptIsItsRounds : Obligations.EncryptIsItsRounds :=
  ⟨fun rk p => ⟨fun r => encryptRounds rk p r.val, rfl, fun _ _ h _ => encryptRounds_succ rk p h, encrypt_eq_encFinal rk p⟩,
    encrypt_sourcePlaintext⟩

end Sys2Proof.Machine

/-! SUPPORT. The decryption engine: its primitives row by row and column by column, each undoing its partner of the encryption
engine, the rounds of Decrypt against those of Encrypt, and the steps of DECRYPT with their frames. -/

namespace Sys2Proof.Machine

/-! ### InvShiftRows, in the matrix view -/

theorem blockAt_invShiftRows (b : Block) {r c d : Fin 4} (h : c.val = (d.val + r.val) % 4) :
    blockAt (invShiftRows b) r c = blockAt b r d := by
  rw [invShiftRows, blockAt_blockOfMatrix]
  exact congrArg (blockAt b r) (Fin.ext (by dsimp only; omega))

theorem invShiftRows_shiftRows (b : Block) : invShiftRows (shiftRows b) = b :=
  block_ext_blockAt fun r c => by
    have hc : c.val = ((c - r).val + r.val) % 4 := by simp [← Fin.val_add]
    rw [blockAt_invShiftRows _ hc, blockAt_shiftRows b hc]

theorem shiftRows_invShiftRows (b : Block) : shiftRows (invShiftRows b) = b :=
  block_ext_blockAt fun r c => by
    rw [blockAt_shiftRows _ (d := c + r) rfl, blockAt_invShiftRows _ (d := c) rfl]

theorem invShiftRows_of_constant_rows {b : Block} (h : ∀ r c d : Fin 4, blockAt b r c = blockAt b r d) :
    invShiftRows b = b := by
  conv_lhs => rw [← shiftRows_of_constant_rows h, invShiftRows_shiftRows]

/-- The table Q of 44_decrypt_engine.md R232. -/
theorem invShiftRows_toList (b : Block) :
    (invShiftRows b).toList =
      [b[0], b[13], b[10], b[7], b[4], b[1], b[14], b[11], b[8], b[5], b[2], b[15], b[12], b[9], b[6], b[3]] := by
  simp [invShiftRows, blockOfMatrix, blockAt, Vector.toList_ofFn, List.ofFn_succ]

/-- InvSubBytes substitutes each byte where it stands. -/
theorem blockAt_invSubBytes (b : Block) (r c : Fin 4) : blockAt (invSubBytes b) r c = sboxI (blockAt b r c) :=
  invSubBytes_getElem b _ _

theorem invSubBytes_invShiftRows (b : Block) : invSubBytes (invShiftRows b) = invShiftRows (invSubBytes b) :=
  block_ext_blockAt fun r c => by
    have hc : c.val = ((c - r).val + r.val) % 4 := by simp [← Fin.val_add]
    rw [blockAt_invSubBytes, blockAt_invShiftRows b hc, blockAt_invShiftRows _ hc, blockAt_invSubBytes]

/-! ### InvMixColumns, column by column -/

theorem xorLinear_mul9 : XorLinear mul9 := funext mul9_eq_repeatedDoubling ▸ xorLinear_repeatedDoubling 9

theorem xorLinear_mul11 : XorLinear mul11 := funext mul11_eq_repeatedDoubling ▸ xorLinear_repeatedDoubling 11

theorem xorLinear_mul13 : XorLinear mul13 := funext mul13_eq_repeatedDoubling ▸ xorLinear_repeatedDoubling 13

theorem xorLinear_mul14 : XorLinear mul14 := funext mul14_eq_repeatedDoubling ▸ xorLinear_repeatedDoubling 14

theorem invMixColumn_wordXor (u v : Word) : invMixColumn (wordXor u v) = wordXor (invMixColumn u) (invMixColumn v) := by
  simp only [invMixColumn, wordXor, xorLinear_mul9 _ _, xorLinear_mul11 _ _, xorLinear_mul13 _ _, xorLinear_mul14 _ _,
    Word.mk.injEq]
  refine ⟨?_, ?_, ?_, ?_⟩ <;> ac_rfl

/-- Each equation of MixColumn is the one before it with the column rotated. -/
theorem mixColumn_rotWord (w : Word) : mixColumn (rotWord w) = rotWord (mixColumn w) := by
  simp only [mixColumn, rotWord, Word.mk.injEq]
  refine ⟨?_, ?_, ?_, ?_⟩ <;> ac_rfl

/-- Each equation of InvMixColumn is the one before it with the column rotated. -/
theorem invMixColumn_rotWord (w : Word) : invMixColumn (rotWord w) = rotWord (invMixColumn w) := by
  simp only [invMixColumn, rotWord, Word.mk.injEq]
  refine ⟨?_, ?_, ?_, ?_⟩ <;> ac_rfl

/-- The column with one byte at its top. -/
def topColumn (x : Byte) : Word := ⟨x, 0x00, 0x00, 0x00⟩

/-- A column is the sum of its four bytes, each rotated down from the top to its place. -/
theorem word_eq_xor_rotated_topColumns (w : Word) :
    w = wordXor (topColumn w.a0) (wordXor (rotWord^[3] (topColumn w.a1))
      (wordXor (rotWord^[2] (topColumn w.a2)) (rotWord^[1] (topColumn w.a3)))) := by
  simp [wordXor, rotWord, topColumn]

/-- The constants of the two columns multiply to 1, 0, 0, 0 (44_decrypt_engine.md R240: by linearity on the unit columns). -/
theorem invMixColumn_mixColumn_topColumn : ∀ x : Byte, invMixColumn (mixColumn (topColumn x)) = topColumn x := by decide

theorem invMixColumn_mixColumn_iterate_rotWord (n : Nat) (x : Byte) :
    invMixColumn (mixColumn (rotWord^[n] (topColumn x))) = rotWord^[n] (topColumn x) := by
  have hrot : Function.Commute (invMixColumn ∘ mixColumn) rotWord := fun w => by
    simp only [Function.comp_apply, mixColumn_rotWord, invMixColumn_rotWord]
  rw [← Function.comp_apply (f := invMixColumn), (hrot.iterate_right n).eq, Function.comp_apply,
    invMixColumn_mixColumn_topColumn]

theorem invMixColumn_mixColumn (w : Word) : invMixColumn (mixColumn w) = w := by
  rw [word_eq_xor_rotated_topColumns w]
  simp only [mixColumn_wordXor, invMixColumn_wordXor, invMixColumn_mixColumn_topColumn,
    invMixColumn_mixColumn_iterate_rotWord]

theorem invMixColumn_constant (v : Byte) : invMixColumn ⟨v, v, v, v⟩ = ⟨v, v, v, v⟩ := by
  conv_lhs => rw [← mixColumn_constant, invMixColumn_mixColumn]

theorem blockWord_invMixColumns (b : Block) (c : Fin 4) : blockWord (invMixColumns b) c = invMixColumn (blockWord b c) :=
  blockWord_blockOfWords _ c

theorem invMixColumns_mixColumns (b : Block) : invMixColumns (mixColumns b) = b :=
  block_ext_blockWord fun j => by
    rw [blockWord_invMixColumns, blockWord_mixColumns, invMixColumn_mixColumn]

/-- A schedule of zeros but for one byte of round key 1. -/
def singleByteSchedule : RoundKeys :=
  withRoundKey (Vector.replicate 176 0x00) 1 (hexBlock 0x01000000000000000000000000000000)

/-- InvMixColumns spreads the byte of the round key over its column, unless it is added after InvMixColumns. -/
theorem invMixColumns_addRoundKey_ne :
    invMixColumns (addRoundKey singleByteSchedule (Vector.replicate 16 0x00) 1) ≠
      addRoundKey singleByteSchedule (invMixColumns (Vector.replicate 16 0x00)) 1 := by
  simp only [addRoundKey, singleByteSchedule, roundKey_withRoundKey_same]
  decide

/-! ### The rounds of Decrypt -/

/-- A decrypt round undoes the encrypt round of its index, step by step in the opposite order. -/
theorem decRound_encRound (rk : RoundKeys) (b : Block) (r : Round) : decRound rk (encRound rk b r) r = b := by
  rw [decRound, encRound, addRoundKey_addRoundKey, invMixColumns_mixColumns, invShiftRows_shiftRows, invSubBytes_subBytes]

theorem decFirst_encFinal (rk : RoundKeys) (b : Block) : decFirst rk (encFinal rk b) = b := by
  rw [decFirst, encFinal, addRoundKey_addRoundKey, invShiftRows_shiftRows, invSubBytes_subBytes]

theorem decFinal_encInit (rk : RoundKeys) (b : Block) : decFinal rk (encInit rk b) = b :=
  addRoundKey_addRoundKey rk b 0

/-- The block after n + 1 rounds of decrypting c, that is after round 10 - n, n = 0..9 (44_decrypt_engine.md R238). -/
def decryptRounds (rk : RoundKeys) (c : Block) : Nat → Block
  | 0 => decFirst rk c
  | n + 1 => decRound rk (decryptRounds rk c n) (Fin.ofNat 11 (9 - n))

theorem decryptRounds_succ (rk : RoundKeys) (c : Block) {n : Nat} {r : Round} (h : n + r.val = 9) :
    decryptRounds rk c (n + 1) = decRound rk (decryptRounds rk c n) r := by
  rw [decryptRounds, ← h, Nat.add_sub_cancel_left, Fin.ofNat_val_eq_self]

/-- The block after round r, from the block after the round before it, q = r + 1. -/
theorem decryptRounds_ten_sub (rk : RoundKeys) (c : Block) {q r : Round} (h : r.val + 1 = q.val) :
    decryptRounds rk c (10 - r.val) = decRound rk (decryptRounds rk c (10 - q.val)) r := by
  have hn : 10 - r.val = 10 - q.val + 1 := by omega
  rw [hn, decryptRounds_succ rk c (r := r) (by omega)]

theorem decrypt_eq_decFinal (rk : RoundKeys) (c : Block) : decrypt rk c = decFinal rk (decryptRounds rk c 9) := rfl

/-- Decrypting goes back through the blocks of the encryption (44_decrypt_engine.md R239). -/
theorem decryptRounds_encrypt (rk : RoundKeys) (p : Block) {n m : Nat} (h : n + m = 9) :
    decryptRounds rk (encrypt rk p) n = encryptRounds rk p m := by
  induction n generalizing m with
  | zero =>
    obtain rfl : m = 9 := by omega
    exact decFirst_encFinal rk _
  | succ n ih =>
    have hround := encryptRounds_succ rk p (q := ⟨m, by omega⟩) (r := ⟨m + 1, by omega⟩) rfl
    rw [decryptRounds_succ rk _ (r := ⟨m + 1, by omega⟩) (by dsimp only; omega), ih (m := m + 1) (by omega), hround,
      decRound_encRound]

theorem decrypt_encrypt (rk : RoundKeys) (p : Block) : decrypt rk (encrypt rk p) = p := by
  rw [decrypt_eq_decFinal, decryptRounds_encrypt rk p (m := 0) rfl]
  exact decFinal_encInit rk p

theorem finite_block : Finite Block :=
  Finite.of_injective (fun (b : Block) (i : Fin 16) => b[i]) fun _ _ h => Vector.ext fun i hi => congrFun h ⟨i, hi⟩

/-- The blocks are finitely many, so a map of blocks that is undone from one side is undone from both. -/
theorem encrypt_decrypt (rk : RoundKeys) (c : Block) : encrypt rk (decrypt rk c) = c := by
  have hleft : Function.LeftInverse (decrypt rk) (encrypt rk) := decrypt_encrypt rk
  have := finite_block
  exact hleft.rightInverse_of_surjective (Finite.surjective_of_injective hleft.injective) c

/-! ### The steps of DECRYPT -/

theorem decData_first (rk : RoundKeys) (b : Block) : decData rk b 10 = decFirst rk b := rfl

theorem decData_last (rk : RoundKeys) (b : Block) : decData rk b 0 = decFinal rk b := rfl

theorem decData_round (rk : RoundKeys) (b : Block) {r : Round} (h1 : 1 ≤ r.val) (h9 : r.val ≤ 9) :
    decData rk b r = decRound rk b r := by
  have h0 : r ≠ 0 := fun e => by simp [e] at h1
  have h10 : r ≠ 10 := fun e => by simp [e] at h9
  rw [decData, if_neg h10, if_neg h0]

theorem seqStep_dec_eq {s : State} {r : Round} (h : s.seq = .dec r) :
    seqStep s = { s with data := decData s.rk s.data r, seq := decNext r } := seqStep_dec h

theorem seqStep_dec_first {s : State} (h : s.seq = .dec 10) :
    seqStep s = { s with data := decFirst s.rk s.data, seq := .dec 9 } := by
  rw [seqStep_dec_eq h, decData_first, decNext_pred (r := 9) rfl]

theorem seqStep_dec_round {s : State} {r q : Round} (hr : r.val ≤ 9) (hq : q.val + 1 = r.val) (h : s.seq = .dec r) :
    seqStep s = { s with data := decRound s.rk s.data r, seq := .dec q } := by
  rw [seqStep_dec_eq h, decData_round _ _ (by omega) hr, decNext_pred hq.symm]

theorem seqStep_dec_last {s : State} (h : s.seq = .dec 0) :
    seqStep s = { s with data := decFinal s.rk s.data, seq := .idle } := by
  rw [seqStep_dec_eq h, decData_last, decNext_last]

/-- After n + 1 steps, n = 0..9: DATA is the block after n + 1 rounds, and nothing else but seq has changed. -/
theorem iterate_seqStep_dec {s : State} (h : s.seq = .dec 10) {n : Nat} {r : Round} (hr : n + r.val = 9) :
    seqStep^[n + 1] s = { s with data := decryptRounds s.rk s.data n, seq := .dec r } := by
  induction n generalizing r with
  | zero =>
    obtain rfl : r = 9 := Fin.ext (by simpa using hr)
    exact seqStep_dec_first h
  | succ n ih =>
    have hq : n + (⟨r.val + 1, by omega⟩ : Round).val = 9 := by dsimp only; omega
    rw [Function.iterate_succ_apply', ih hq, seqStep_dec_round (by dsimp only; omega) rfl rfl, decryptRounds_succ _ _ hq]

/-- The eleven steps from DEC(10) decrypt DATA. -/
theorem iterate_seqStep_decrypt {s : State} (h : s.seq = .dec 10) :
    seqStep^[11] s = { s with data := decrypt s.rk s.data, seq := .idle } := by
  rw [Function.iterate_succ_apply', iterate_seqStep_dec h (n := 9) (r := 0) rfl, seqStep_dec_last rfl, decrypt_eq_decFinal]

/-- DECRYPT counts its steps down from DEC(10). -/
theorem iterate_seqStep_dec_seq {s : State} (h : s.seq = .dec 10) {n : Nat} {r : Round} (hr : n + r.val = 10) :
    (seqStep^[n] s).seq = .dec r := by
  cases n with
  | zero =>
    obtain rfl : r = 10 := Fin.ext (by simpa using hr)
    exact h
  | succ n => rw [iterate_seqStep_dec h (r := r) (by omega)]

/-- DATA after DEC(r) is DATA before ENC(r) of the matching encryption. -/
theorem iterate_seqStep_dec_data_eq_enc {e d : State} {r : Round} (he : e.seq = .enc 0) (hd : d.seq = .dec 10)
    (hrk : d.rk = e.rk) (hdata : d.data = encrypt e.rk e.data) (hr : 1 ≤ r.val) :
    (seqStep^[11 - r.val] d).data = (seqStep^[r.val] e).data := by
  obtain ⟨m, hm⟩ : ∃ m, r.val = m + 1 := ⟨r.val - 1, by omega⟩
  have hsteps : 11 - r.val = 9 - m + 1 := by omega
  have hsum : 9 - m + m = 9 := by omega
  rw [hsteps, hm, iterate_seqStep_dec hd (r := ⟨m, by omega⟩) hsum, iterate_seqStep_enc he m (by omega), hrk, hdata]
  exact decryptRounds_encrypt e.rk e.data hsum

/-! ### The obligations of 44_decrypt_engine.md -/

/-- Settles O15: each step by its equation, the run from DEC(10) by the block after each round, and the matching encryption by
the blocks that decrypting goes back through. -/
theorem decryptStepByStep : Obligations.DecryptStepByStep := by
  refine ⟨fun _ h => seqStep_dec_first h, fun _ _ _ hr hq h => seqStep_dec_round hr hq h, fun _ h => seqStep_dec_last h,
    fun s h => ⟨fun n r hr => ?_, iterate_seqStep_decrypt h⟩,
    fun _ _ _ he hd hrk hdata hr => iterate_seqStep_dec_data_eq_enc he hd hrk hdata hr⟩
  have hseq := iterate_seqStep_dec_seq h hr
  exact ⟨hseq, by rw [status_high_nibble, hseq]; rfl⟩

/-- Settles O47: the columns are mixed apart, and a column is a sum of rotated columns of one byte, on which InvMixColumn undoes
MixColumn. -/
theorem invMixColumnsEquations : Obligations.InvMixColumnsEquations :=
  ⟨fun _ _ _ _ => rfl, invMixColumn_mixColumn, invMixColumn_constant, by decide, by decide, blockWord_invMixColumns,
    invMixColumns_mixColumns, by decide⟩

/-- Settles O48: the rounds are undone by the pairs, and the example is a round of the source's trace. -/
theorem inversePairs : Obligations.InversePairs := by
  refine ⟨fun b => ⟨invSubBytes_subBytes b, invShiftRows_shiftRows b, invMixColumns_mixColumns b⟩, addRoundKey_addRoundKey,
    fun _ _ _ => rfl, fun rk b r _ _ => decRound_encRound rk b r, decFirst_encFinal, ?_⟩
  calc decRound (expandKey sourceKey) (sourceBlock 1) 1
      = decRound (expandKey sourceKey) (encRound (expandKey sourceKey) (sourceBlock 0) 1) 1 := by
        rw [encRound_sourceBlock 0 1 rfl (by decide)]
    _ = sourceBlock 0 := decRound_encRound _ _ _

/-- Settles O52: the intermediate blocks are those after each round, and the known answer is the source's encryption undone. -/
theorem decryptUndoesEncrypt : Obligations.DecryptUndoesEncrypt := by
  refine ⟨fun rk c => ⟨fun r => decryptRounds rk c (10 - r.val), rfl, fun _ _ h _ => decryptRounds_ten_sub rk c h, ?_⟩,
    fun k p => decrypt_encrypt (expandKey k) p, fun rk p => ⟨decrypt_encrypt rk p, encrypt_decrypt rk p⟩, ?_⟩
  · rw [decrypt_eq_decFinal, decFinal]
    rfl
  · calc decrypt (expandKey sourceKey) (sourceBlock 10)
        = decrypt (expandKey sourceKey) (encrypt (expandKey sourceKey) sourcePlaintext) := by rw [encrypt_sourcePlaintext]
      _ = sourcePlaintext := decrypt_encrypt _ _

/-- Settles O46: InvShiftRows reads the column that ShiftRows moved to the place, and the inverse table undoes the forward
table. -/
theorem invSubBytesAndInvShiftRows : Obligations.InvSubBytesAndInvShiftRows :=
  ⟨fun b i => invSubBytes_getElem b i.val i.isLt, invSubBytes_subBytes, by decide, by decide,
    fun b _ _ _ h => blockAt_invShiftRows b h, invShiftRows_toList, fun _ h => invShiftRows_of_constant_rows h,
    fun b => ⟨invShiftRows_shiftRows b, shiftRows_invShiftRows b⟩, by decide⟩

/-- Settles O49: one only substitutes bytes and the other only moves them; a round key with one byte tells the other two apart. -/
theorem inverseStepsThatCommute : Obligations.InverseStepsThatCommute :=
  ⟨invSubBytes_invShiftRows, singleByteSchedule, Vector.replicate 16 0x00, invMixColumns_addRoundKey_ne⟩

end Sys2Proof.Machine

/-! SUPPORT. The rules that the proofs of the dispatch statements of 45_host_commands.md share: the offsets of the window, the
command writes by state, what reads show after a write, and the step of the agent that moves next. -/

namespace Sys2Proof.Machine

/-! ### Offsets -/

theorem offset_eq_ofNat {off : Byte} {n : Nat} (h : off.toNat = n) : off = BitVec.ofNat 8 n := by
  rw [← h, BitVec.ofNat_toNat, BitVec.setWidth_eq]

theorem windowReg_key_iff (off : Byte) (i : Fin 16) : windowReg off = .key i ↔ off = BitVec.ofNat 8 i.val := by
  revert off i; decide +kernel

theorem windowReg_data_iff (off : Byte) (i : Fin 16) :
    windowReg off = .data i ↔ off = BitVec.ofNat 8 (0x10 + i.val) := by
  revert off i; decide +kernel

/-- The offsets below CMD are those of KEY and DATA (20_memory.md R71). -/
theorem key_or_data_offset {off : Byte} (h : off.toNat < 0x20) :
    (∃ i : Fin 16, off = BitVec.ofNat 8 i.val) ∨ ∃ i : Fin 16, off = BitVec.ofNat 8 (0x10 + i.val) := by
  by_cases hk : off.toNat < 0x10
  · exact .inl ⟨⟨off.toNat, hk⟩, offset_eq_ofNat rfl⟩
  · exact .inr ⟨⟨off.toNat - 0x10, by omega⟩, offset_eq_ofNat (by dsimp only; omega)⟩

/-! ### Writes -/

theorem exec_nop_of_idle {s : State} (hi : s.seq = .idle) : exec .nop s = .next s := by
  rw [exec_nop, unlessBusy_idle _ hi, id]

theorem exec_expand_of_idle {s : State} (hi : s.seq = .idle) : exec .expand s = .next (acceptExpand s) := by
  rw [exec_expand, unlessBusy_idle _ hi]

theorem exec_encrypt_accepted {s : State} (hi : s.seq = .idle) (hk : s.kv = true) :
    exec .encrypt s = .next (acceptEncrypt s) := by
  rw [exec_encrypt, unlessBusy_idle _ hi, requireKey_valid _ hk]

theorem exec_decrypt_accepted {s : State} (hi : s.seq = .idle) (hk : s.kv = true) :
    exec .decrypt s = .next (acceptDecrypt s) := by
  rw [exec_decrypt, unlessBusy_idle _ hi, requireKey_valid _ hk]

theorem exec_encrypt_no_key {s : State} (hi : s.seq = .idle) (hk : s.kv = false) :
    exec .encrypt s = .next (raiseError .noKey s) := by
  rw [exec_encrypt, unlessBusy_idle _ hi, requireKey_invalid _ hk]

theorem exec_decrypt_no_key {s : State} (hi : s.seq = .idle) (hk : s.kv = false) :
    exec .decrypt s = .next (raiseError .noKey s) := by
  rw [exec_decrypt, unlessBusy_idle _ hi, requireKey_invalid _ hk]

/-- While a command runs a write to CMD is Error(BUSY), whatever the byte spells (45_host_commands.md R267). -/
theorem writeCmd_busy (v : Byte) {s : State} (hb : s.busy = true) : writeCmd v s = .next (raiseError .busy s) := by
  cases hd : decode v with
  | ok i => rw [writeCmd_command hd, exec_busy i hb]
  | error r => rw [writeCmd_reserved hd, unlessBusy_busy _ hb]

/-- While a command runs a write to KEY, DATA or CMD is Error(BUSY) (60_exceptions.md R302). -/
theorem memWrite_busy {off : Byte} (h : off.toNat ≤ 0x20) (v : Byte) {s : State} (hb : s.busy = true) :
    memWrite off v s = .next (raiseError .busy s) := by
  rcases Nat.lt_or_eq_of_le h with hlt | hcmd
  · obtain ⟨i, rfl⟩ | ⟨i, rfl⟩ := key_or_data_offset hlt
    · rw [memWrite_key, unlessBusy_busy _ hb]
    · rw [memWrite_data, unlessBusy_busy _ hb]
  · rw [offset_eq_ofNat hcmd, memWrite_cmd, writeCmd_busy v hb]

/-! ### Reads -/

theorem writesData_iff (q : Seq) : q.writesData = true ↔ ∃ r, q = .enc r ∨ q = .dec r := by
  cases q <;> simp [Seq.writesData]

theorem writesRk_iff (q : Seq) : q.writesRk = true ↔ ∃ r, q = .kex r := by
  cases q <;> simp [Seq.writesRk]

theorem windowByte_data_draw (i : Fin 16) {s : State} (h : s.seq.writesData = true) :
    windowByte (BitVec.ofNat 8 (0x10 + i.val)) s = none := by
  simp [windowByte, windowReg_data, h]

theorem windowByte_rk_draw (j : Fin 176) {s : State} (h : s.seq.writesRk = true) :
    windowByte (BitVec.ofNat 8 (0x30 + j.val)) s = none := by
  simp [windowByte, windowReg_rk, h]

/-- Where the window shows no byte a read returns the next free byte, and the draw is counted (log 4). -/
theorem read_of_draw {off : Byte} {s : State} (h : windowByte off s = none) :
    readValue off s = Config.freeByte s.env.draws ∧ (memRead off s).env.draws = s.env.draws + 1 := by
  simp [readValue, readDraws, drawnByte, h]

theorem readValue_cmd (s : State) : readValue 0x20#8 s = 0x00 := by
  simp [readValue, windowByte]

theorem readValue_errcode (s : State) : readValue 0x22#8 s = s.errcode := by
  simp [readValue, windowByte]

/-- A read depends on what the window shows and on the draws that were taken. -/
theorem readValue_congr {off : Byte} {s t : State} (hw : windowByte off t = windowByte off s) (he : t.env = s.env) :
    readValue off t = readValue off s := by
  rw [readValue, readValue, drawnByte, drawnByte, hw, he]

/-- The byte of KEY that was written is read at its own offset only. -/
theorem readValue_setKeyByte_other {a : Byte} {i : Fin 16} (h : a ≠ BitVec.ofNat 8 i.val) (v : Byte) (s : State) :
    readValue a (s.setKeyByte i v) = readValue a s := by
  refine readValue_congr ?_ rfl
  unfold windowByte
  cases hw : windowReg a with
  | key j =>
    have hne : i.val ≠ j.val := fun e => h ((windowReg_key_iff a i).mp (by rw [hw, Fin.ext e]))
    exact congrArg some (Vector.getElem_set_ne i.isLt j.isLt hne)
  | _ => rfl

/-- The byte of DATA that was written is read at its own offset only. -/
theorem readValue_setDataByte_other {a : Byte} {i : Fin 16} (h : a ≠ BitVec.ofNat 8 (0x10 + i.val)) (v : Byte) (s : State) :
    readValue a (s.setDataByte i v) = readValue a s := by
  refine readValue_congr ?_ rfl
  unfold windowByte
  cases hw : windowReg a with
  | data j =>
    have hne : i.val ≠ j.val := fun e => h ((windowReg_data_iff a i).mp (by rw [hw, Fin.ext e]))
    exact congrArg (fun b => if s.seq.writesData then none else some b) (Vector.getElem_set_ne i.isLt j.isLt hne)
  | _ => rfl

/-! ### Steps -/

theorem step_of_nextAgent {s : State} {a : Agent} (h : nextAgent s = a) : step s = agentStep a (takeTurn s) := by
  rw [step, h]

/-! ### The dispatch obligations of 45_host_commands.md -/

/-- Settles O4: the step is the host's turn, and its next operation is the write of the command's byte to CMD. -/
theorem stepRunsDecodedCommand : Obligations.StepRunsDecodedCommand := by
  intro s b i rest ha hhost hd
  calc step s = hostTurn (takeTurn s) := step_of_nextAgent ha
    _ = memWrite 0x20#8 b ((takeTurn s).setHost rest) := by rw [hostTurn, takeTurn_host, hhost]
    _ = exec i ((takeTurn s).setHost rest) := memWrite_cmd_command hd _

/-- Settles O8: the write of NOP's byte is Error(BUSY) for any command, and else NOP does nothing. -/
theorem nopDoesNothingWhenIdle : Obligations.NopDoesNothingWhenIdle :=
  fun s => ⟨exec_nop_of_idle, fun hb => exec_busy .nop ((busy_iff s).mpr hb)⟩

/-- Settles O9: at IDLE the checks pass, and each acceptance sets KV and seq at most. -/
theorem commandsAreAcceptedWhenIdle : Obligations.CommandsAreAcceptedWhenIdle :=
  ⟨fun _ => exec_expand_of_idle, fun _ => exec_encrypt_accepted, fun _ => exec_decrypt_accepted⟩

/-- Settles O27: Error(BUSY) for the first three regions while a command runs, and each region's own write otherwise. -/
theorem writeDispatch : Obligations.WriteDispatch := by
  intro s off v
  refine ⟨fun h hb => memWrite_busy h v ((busy_iff s).mpr hb), ?key, ?data, ?cmd, ?status, memWrite_ignored off v s⟩
  case key =>
    intro i h hi
    rw [offset_eq_ofNat h]
    exact memWrite_key_of_idle i v hi
  case data =>
    intro i h hi
    rw [offset_eq_ofNat h]
    exact memWrite_data_of_idle i v hi
  case cmd =>
    rintro rfl hi
    refine ⟨?_, ?_, ?_, ?_, ?_, ?_, fun h => memWrite_cmd_reserved_of_idle h hi⟩
    · rintro rfl
      exact (memWrite_cmd_command (decode_encode .nop) s).trans (exec_nop_of_idle hi)
    · rintro rfl
      exact (memWrite_cmd_command (decode_encode .expand) s).trans (exec_expand_of_idle hi)
    · rintro rfl hk
      exact (memWrite_cmd_command (decode_encode .encrypt) s).trans (exec_encrypt_no_key hi hk)
    · rintro rfl hk
      exact (memWrite_cmd_command (decode_encode .encrypt) s).trans (exec_encrypt_accepted hi hk)
    · rintro rfl hk
      exact (memWrite_cmd_command (decode_encode .decrypt) s).trans (exec_decrypt_no_key hi hk)
    · rintro rfl hk
      exact (memWrite_cmd_command (decode_encode .decrypt) s).trans (exec_decrypt_accepted hi hk)
  case status =>
    rintro rfl
    exact memWrite_status v s

/-- Settles O28: a read shows its register, and it is a draw where the running command writes. -/
theorem readDispatch : Obligations.ReadDispatch := by
  intro s
  refine ⟨fun i => readValue_key i s, fun i h => read_of_draw (windowByte_data_draw i ((writesData_iff _).mpr h)),
    fun i h => readValue_data i ?_, readValue_cmd s, readValue_status s, readValue_errcode s,
    fun j h => read_of_draw (windowByte_rk_draw j ((writesRk_iff _).mpr h)), fun j h => readValue_rk j ?_,
    fun off h => readValue_reserved (windowReg_reserved off h) s,
    fun off => ⟨memRead_sameBlock off s, memRead_readLog off s⟩⟩
  · rw [← Bool.not_eq_true, writesData_iff]
    rintro ⟨r, he | hd⟩
    · exact (h r).1 he
    · exact (h r).2 hd
  · rw [← Bool.not_eq_true, writesRk_iff]
    rintro ⟨r, hk⟩
    exact h r hk

/-- Settles O31: the written byte stands in its register, and every other offset shows another byte of the window. -/
theorem hostWriteReadsBack : Obligations.HostWriteReadsBack := by
  intro s off v hi hoff
  obtain ⟨i, rfl⟩ | ⟨i, rfl⟩ := key_or_data_offset hoff
  · refine ⟨_, memWrite_key_of_idle i v hi, ?_, fun a h => readValue_setKeyByte_other h v s⟩
    rw [readValue_key]
    exact Vector.getElem_set_self i.isLt
  · refine ⟨_, memWrite_data_of_idle i v hi, ?_, fun a h => readValue_setDataByte_other h v s⟩
    rw [readValue_data_of_idle i (s := s.setDataByte i v) hi]
    exact Vector.getElem_set_self i.isLt

/-- Settles O7: a host turn is a write, a read or nothing, and the turn that comes next can be given to any agent. -/
theorem stepIsOneTransition : Obligations.StepIsOneTransition := by
  refine ⟨fun s t h => ?_, fun s off v => ⟨rfl, rfl, rfl, rfl⟩⟩
  have htake := takeTurn_sameBlock s
  have hset (ops : List HostOp) : SameBlock s ((takeTurn s).setHost ops) := htake.trans (setHost_sameBlock _ ops)
  obtain ⟨-, hhost⟩ | ⟨-, rfl⟩ | ⟨-, rfl⟩ := step_cases h
  · obtain ⟨-, rfl⟩ | ⟨off, v, rest, -, hw⟩ | ⟨off, rest, -, rfl⟩ | ⟨off, _, _, rest, -, ⟨-, rfl⟩ | ⟨-, rfl⟩⟩ :=
      hostTurn_cases hhost
    · exact ⟨_, htake, .inr (.inr (.inr (.inr rfl)))⟩
    · exact ⟨_, hset rest, .inl ⟨off, v, hw⟩⟩
    · exact ⟨_, hset rest, .inr (.inl ⟨off, rfl⟩)⟩
    · exact ⟨_, hset rest, .inr (.inl ⟨off, rfl⟩)⟩
    · exact ⟨_, htake, .inr (.inl ⟨off, rfl⟩)⟩
  · by_cases hi : s.seq = .idle
    · exact ⟨_, htake, .inr (.inr (.inr (.inr (seqStep_idle hi))))⟩
    · exact ⟨_, htake, .inr (.inr (.inl ⟨hi, rfl⟩))⟩
  · exact ⟨_, htake, .inr (.inr (.inr (.inl rfl)))⟩

end Sys2Proof.Machine

/-! SUPPORT. The rules that the proofs of the running-command statements of 45_host_commands.md share: how many steps a command
has left, runs put together, and what the host's turns leave of a command that runs. -/

namespace Sys2Proof.Machine

/-! ### The steps a command has left -/

/-- How many sequencer turns the running command takes until it is IDLE (45_host_commands.md R268). -/
def stepsLeft : Seq → Nat
  | .idle => 0
  | .kex r => 11 - r.val
  | .enc r => 11 - r.val
  | .dec r => r.val + 1

theorem stepsLeft_le (q : Seq) : stepsLeft q ≤ 11 := by
  cases q <;> simp only [stepsLeft] <;> omega

theorem stepsLeft_eq_zero_iff (q : Seq) : stepsLeft q = 0 ↔ q = .idle := by
  cases q with
  | idle => simp [stepsLeft]
  | kex r => simp [stepsLeft]; omega
  | enc r => simp [stepsLeft]; omega
  | dec r => simp [stepsLeft]

theorem stepsLeft_stepKex (r : Round) (s : State) : stepsLeft (stepKex r s).seq = 10 - r.val := by
  by_cases hr : r.val < 10
  · rw [stepKex_seq_succ (q := ⟨r.val + 1, by omega⟩) rfl, stepsLeft]
    dsimp only
    omega
  · obtain rfl : r = 10 := Fin.ext (by simp; omega)
    rfl

theorem stepsLeft_encNext : ∀ r : Round, stepsLeft (encNext r) = 10 - r.val := by decide

theorem stepsLeft_decNext : ∀ r : Round, stepsLeft (decNext r) = r.val := by decide

/-- A sequencer step takes one off. -/
theorem stepsLeft_seqStep (s : State) : stepsLeft (seqStep s).seq = stepsLeft s.seq - 1 := by
  cases h : s.seq with
  | idle => rw [seqStep_idle h, h]; rfl
  | kex r => rw [seqStep_kex h, stepsLeft_stepKex, stepsLeft]; omega
  | enc r => rw [seqStep_enc h, stepEnc_seq, stepsLeft_encNext, stepsLeft]; omega
  | dec r => rw [seqStep_dec h, stepDec_seq, stepsLeft_decNext, stepsLeft]; omega

theorem stepsLeft_iterate (n : Nat) (s : State) : stepsLeft (seqStep^[n] s).seq = stepsLeft s.seq - n := by
  induction n with
  | zero => rfl
  | succ n ih => rw [Function.iterate_succ_apply', stepsLeft_seqStep, ih, Nat.sub_sub]

theorem iterate_stepsLeft_idle (s : State) : (seqStep^[stepsLeft s.seq] s).seq = .idle := by
  rw [← stepsLeft_eq_zero_iff, stepsLeft_iterate, Nat.sub_self]

/-! ### Steps and runs -/

theorem exec_completes (i : Instr) (s : State) : Completes (exec i s) := by
  cases i <;> exact ⟨_, rfl⟩

theorem writeCmd_completes (v : Byte) (s : State) : Completes (writeCmd v s) := by
  unfold writeCmd
  cases decode v with
  | ok i => exact exec_completes i s
  | error _ => exact ⟨_, rfl⟩

theorem memWrite_completes (off v : Byte) (s : State) : Completes (memWrite off v s) := by
  unfold memWrite
  cases windowReg off with
  | cmd => exact writeCmd_completes v s
  | _ => exact ⟨_, rfl⟩

theorem hostTurn_completes (s : State) : Completes (hostTurn s) := by
  unfold hostTurn
  cases s.env.host with
  | nil => exact ⟨_, rfl⟩
  | cons op rest =>
    cases op with
    | write off v => exact memWrite_completes off v _
    | _ => exact ⟨_, rfl⟩

theorem step_completes (s : State) : Completes (step s) := by
  unfold step
  cases nextAgent s with
  | host => exact hostTurn_completes _
  | sequencer => exact ⟨_, rfl⟩
  | reset => exact ⟨_, rfl⟩

theorem Runs.one {s t : State} (h : step s = .next t) : Runs 1 s t := run_succ h 0

theorem Runs.cons {s t u : State} {n : Nat} (h : step s = .next t) (hr : Runs n t u) : Runs (n + 1) s u :=
  (run_succ h n).trans hr

theorem Runs.trans {s t u : State} {m n : Nat} (hst : Runs m s t) (htu : Runs n t u) : Runs (m + n) s u := by
  induction m generalizing s with
  | zero =>
    obtain rfl : s = t := Host.Outcome.next.inj ((run_zero s).symm.trans hst)
    rwa [Nat.zero_add]
  | succ m ih =>
    obtain ⟨s', hs⟩ := step_completes s
    rw [Nat.succ_add]
    exact Runs.cons hs (ih ((run_succ hs m).symm.trans hst))

/-- Once no turns are prescribed a running command takes its steps one after the other (45_host_commands.md R269). -/
theorem runs_seqStep {s : State} (ht : s.env.turns = []) (n : Nat) (hn : n ≤ stepsLeft s.seq) :
    Runs n s (seqStep^[n] s) := by
  induction n generalizing s with
  | zero => exact run_zero s
  | succ n ih =>
    have hb : s.seq ≠ .idle := fun hi => by simp [hi, stepsLeft] at hn
    have htake : takeTurn s = s := by rw [takeTurn, ht, List.tail_nil, ← ht]; rfl
    have hstep : step s = .next (seqStep s) := by
      rw [step_of_nextAgent (nextAgent_nil_busy ht ((busy_iff s).mpr hb)), htake]
      rfl
    refine Runs.cons hstep (ih ?_ ?_)
    · rw [seqStep_frame]; exact ht
    · rw [stepsLeft_seqStep]; omega

/-! ### What the host's turns leave of a running command -/

/-- The two states differ in the error latch and the environment at most: KEY, DATA, RK, KV, seq and RCON are the same. -/
def SameOperands (s t : State) : Prop := t = (s.setError t.err t.errcode).setEnv t.env

theorem SameOperands.refl (s : State) : SameOperands s s := rfl

theorem SameOperands.trans {s t u : State} (hst : SameOperands s t) (htu : SameOperands t u) : SameOperands s u := by
  unfold SameOperands at *
  rw [hst] at htu
  exact htu

theorem SameBlock.sameOperands {s t : State} (h : SameBlock s t) : SameOperands s t := by
  unfold SameBlock at h
  rw [h]
  rfl

/-- The registers of two such states, field by field. -/
theorem SameOperands.fields {s t : State} (h : SameOperands s t) :
    t.seq = s.seq ∧ t.key = s.key ∧ t.data = s.data ∧ t.rk = s.rk ∧ t.kv = s.kv ∧ t.rcon = s.rcon := by
  rw [h]
  exact ⟨rfl, rfl, rfl, rfl, rfl, rfl⟩

theorem SameOperands.seq_eq {s t : State} (h : SameOperands s t) : t.seq = s.seq := h.fields.1

@[simp] theorem seqStep_env (s : State) : (seqStep s).env = s.env := by
  rw [seqStep_frame]; rfl

/-- A sequencer step reads neither the error latch nor the environment. -/
theorem seqStep_setError_setEnv (s : State) (e : Bool) (c : Byte) (v : Env) :
    seqStep ((s.setError e c).setEnv v) = ((seqStep s).setError e c).setEnv v := by
  cases h : s.seq with
  | idle => rw [seqStep_idle h]; exact seqStep_idle h
  | kex r =>
    refine (seqStep_kex (s := (s.setError e c).setEnv v) h).trans ?_
    rw [seqStep_kex h]
    unfold stepKex stepKexRound kexNext
    split
    · rfl
    · split <;> rfl
  | enc r => rw [seqStep_enc h]; exact seqStep_enc h
  | dec r => rw [seqStep_dec h]; exact seqStep_dec h

theorem SameOperands.seqStep_congr {s t : State} (h : SameOperands s t) : SameOperands (seqStep s) (seqStep t) := by
  rw [SameOperands, seqStep_err, seqStep_errcode, seqStep_env, ← seqStep_setError_setEnv, ← h]

theorem SameOperands.iterate {s t : State} (h : SameOperands s t) (n : Nat) :
    SameOperands (seqStep^[n] s) (seqStep^[n] t) := by
  induction n with
  | zero => exact h
  | succ n ih => rw [Function.iterate_succ_apply', Function.iterate_succ_apply']; exact ih.seqStep_congr

/-- While a command runs a turn of the host reaches the error latch and the environment at most (10_state.md R48). -/
theorem hostTurn_of_busy {s t : State} (h : hostTurn s = .next t) (hb : s.seq ≠ .idle) :
    SameOperands s t ∧ t.env.turns = s.env.turns := by
  obtain ⟨-, rfl⟩ | ⟨off, v, rest, -, hw⟩ | ⟨off, rest, -, rfl⟩ | ⟨off, _, _, rest, -, ⟨-, rfl⟩ | ⟨-, rfl⟩⟩ :=
    hostTurn_cases h
  · exact ⟨.refl _, rfl⟩
  · have heff := WriteEffect.of_memWrite hw
    obtain ⟨-, -, henv⟩ := heff.rk_rcon_env
    have hset := (setHost_sameBlock s rest).sameOperands
    have hlatch : SameOperands (s.setHost rest) t := by
      have ht := heff.eq_setError_of_busy hb
      rw [SameOperands, henv]
      exact ht
    exact ⟨hset.trans hlatch, by rw [henv, setHost_turns]⟩
  · exact ⟨rfl, rfl⟩
  · exact ⟨rfl, rfl⟩
  · exact ⟨rfl, rfl⟩

theorem step_host_of_busy {s : State} {ts : List Agent} (h : s.env.turns = .host :: ts) (hb : s.seq ≠ .idle) :
    ∃ t, step s = .next t ∧ SameOperands s t ∧ t.env.turns = ts := by
  obtain ⟨t, ht⟩ := hostTurn_completes (takeTurn s)
  obtain ⟨hsame, hturns⟩ := hostTurn_of_busy ht hb
  refine ⟨t, ?_, (takeTurn_sameBlock s).sameOperands.trans hsame, ?_⟩
  · rw [step_of_nextAgent (nextAgent_cons h)]; exact ht
  · rw [hturns, takeTurn_turns, h, List.tail_cons]

theorem step_sequencer {s : State} {ts : List Agent} (h : s.env.turns = .sequencer :: ts) :
    ∃ t, step s = .next t ∧ SameOperands (seqStep s) t ∧ t.env.turns = ts := by
  refine ⟨seqStep (takeTurn s), ?_, (takeTurn_sameBlock s).sameOperands.seqStep_congr, ?_⟩
  · rw [step_of_nextAgent (nextAgent_cons h)]; rfl
  · rw [seqStep_env, takeTurn_turns, h, List.tail_cons]

/-- As long as the turns do not end the command, its operands are those after as many steps as the sequencer has turns. -/
theorem runs_turns {s : State} {ts more : List Agent} (hturns : s.env.turns = ts ++ more) (hr : NoReset ts)
    (hn : ts.count .sequencer < stepsLeft s.seq) :
    ∃ t, Runs ts.length s t ∧ SameOperands (seqStep^[ts.count .sequencer] s) t ∧ t.env.turns = more := by
  induction ts generalizing s with
  | nil => exact ⟨s, run_zero s, .refl s, hturns⟩
  | cons a ts ih =>
    obtain ⟨ha, hrest⟩ : Agent.reset ≠ a ∧ NoReset ts := List.ne_and_not_mem_of_not_mem_cons hr
    cases a with
    | host =>
      have hcount : (Agent.host :: ts).count .sequencer = ts.count .sequencer := List.count_cons_of_ne (by decide)
      rw [hcount] at hn ⊢
      have hb : s.seq ≠ .idle := fun hi => by simp [hi, stepsLeft] at hn
      obtain ⟨u, hstep, hsu, hu⟩ := step_host_of_busy hturns hb
      obtain ⟨t, hrun, hut, ht⟩ := ih hu hrest (by rwa [hsu.seq_eq])
      exact ⟨t, Runs.cons hstep hrun, (hsu.iterate _).trans hut, ht⟩
    | sequencer =>
      have hcount : (Agent.sequencer :: ts).count .sequencer = ts.count .sequencer + 1 := List.count_cons_self
      rw [hcount] at hn ⊢
      obtain ⟨u, hstep, hsu, hu⟩ := step_sequencer hturns
      obtain ⟨t, hrun, hut, ht⟩ := ih hu hrest (by rw [hsu.seq_eq, stepsLeft_seqStep]; omega)
      exact ⟨t, Runs.cons hstep hrun, (hsu.iterate _).trans hut, ht⟩
    | reset => exact absurd rfl ha

/-- The turns of one whole command run its eleven steps. -/
theorem runs_commandTurns {s : State} {ts more : List Agent} (hseq : stepsLeft s.seq = 11)
    (hturns : s.env.turns = ts ++ more) (hts : CommandTurns ts) :
    ∃ t, Runs ts.length s t ∧ SameOperands (seqStep^[11] s) t ∧ t.env.turns = more := by
  obtain ⟨hr, hcount, hlast⟩ := hts
  obtain ⟨ts, rfl⟩ := List.getLast?_eq_some_iff.mp hlast
  have hten : ts.count .sequencer = 10 := by simpa using hcount
  obtain ⟨t, hrun, hst, ht⟩ := runs_turns (more := .sequencer :: more) (by simpa using hturns)
    (fun h => hr (List.mem_append_left _ h)) (by omega)
  obtain ⟨u, hstep, htu, hu⟩ := step_sequencer ht
  rw [hten] at hst
  refine ⟨u, ?_, ?_, hu⟩
  · rw [List.length_append]
    exact hrun.trans (Runs.one hstep)
  · rw [Function.iterate_succ_apply']
    exact hst.seqStep_congr.trans htu

/-- The eleven steps from KEX(0) expand KEY. -/
theorem iterate_seqStep_expand {s : State} (h : s.seq = .kex 0) :
    ∃ c : Byte, seqStep^[11] s = { s with rk := expandKey s.key, rcon := c, kv := true, seq := .idle } := by
  obtain ⟨-, -, hrun⟩ := expandStepByStep
  exact (hrun s h).2

/-! ### The running-command obligations of 45_host_commands.md -/

/-- Settles O16: a running command has at most eleven steps left, and it takes them one after the other. -/
theorem runningCommandEndsWithinElevenSteps : Obligations.RunningCommandEndsWithinElevenSteps :=
  fun s _ ht => ⟨stepsLeft s.seq, _, stepsLeft_le _, runs_seqStep ht _ (Nat.le_refl _), iterate_stepsLeft_idle s⟩

/-- Settles O10: the run ends in the operands after the eleven steps of EXPAND. -/
theorem expandUnderEveryInterleaving : Obligations.ExpandUnderEveryInterleaving := by
  intro s ts more hs hturns hts
  obtain ⟨t, hrun, hst, ht⟩ := runs_commandTurns (by rw [hs]; rfl) hturns hts
  obtain ⟨c, hc⟩ := iterate_seqStep_expand hs
  rw [hc] at hst
  obtain ⟨hseq, hkey, hdata, hrk, hkv, -⟩ := hst.fields
  exact ⟨t, hrun, hseq, hkv, hrk, hkey, hdata, ht⟩

/-- Settles O11: the run ends in the operands after the eleven steps of ENCRYPT. -/
theorem encryptUnderEveryInterleaving : Obligations.EncryptUnderEveryInterleaving := by
  intro s ts more hs hturns hts
  obtain ⟨t, hrun, hst, ht⟩ := runs_commandTurns (by rw [hs]; rfl) hturns hts
  rw [iterate_seqStep_encrypt hs] at hst
  obtain ⟨hseq, hkey, hdata, hrk, hkv, hrcon⟩ := hst.fields
  exact ⟨t, hrun, hseq, hdata, hkey, hrk, hkv, hrcon, ht⟩

/-- Settles O12: the run ends in the operands after the eleven steps of DECRYPT. -/
theorem decryptUnderEveryInterleaving : Obligations.DecryptUnderEveryInterleaving := by
  intro s ts more hs hturns hts
  obtain ⟨t, hrun, hst, ht⟩ := runs_commandTurns (by rw [hs]; rfl) hturns hts
  rw [iterate_seqStep_decrypt hs] at hst
  obtain ⟨hseq, hkey, hdata, hrk, hkv, hrcon⟩ := hst.fields
  exact ⟨t, hrun, hseq, hdata, hkey, hrk, hkv, hrcon, ht⟩

end Sys2Proof.Machine

/-! SUPPORT. The rules that the proofs of the host sequences of 45_host_commands.md share: what a run comes to, and one rule a line
of a host program, whatever reset-free turns are left. -/

namespace Sys2Proof.Machine

/-! ### What a run comes to -/

/-- Some number of steps goes to a state with `P`. -/
def Eventually (P : State → Prop) (s : State) : Prop := ∃ n t, Runs n s t ∧ P t

theorem Eventually.now {P : State → Prop} {s : State} (h : P s) : Eventually P s := ⟨0, s, run_zero s, h⟩

theorem Eventually.of_step {P : State → Prop} {s t : State} (h : step s = .next t) (ht : Eventually P t) :
    Eventually P s := by
  obtain ⟨n, u, hrun, hu⟩ := ht
  exact ⟨n + 1, u, Runs.cons h hrun, hu⟩

theorem Eventually.bind {P Q : State → Prop} {s : State} (hs : Eventually P s) (h : ∀ t, P t → Eventually Q t) :
    Eventually Q s := by
  obtain ⟨m, t, hst, ht⟩ := hs
  obtain ⟨n, u, htu, hu⟩ := h t ht
  exact ⟨m + n, u, hst.trans htu, hu⟩

/-- The block is that of `b`, the host has `ops` still to do, its reads have returned `log`, and no reset is among the turns that
are left. -/
structure HostAt (b : State) (ops : List HostOp) (log : List (Byte × Byte)) (t : State) : Prop where
  block : SameBlock b t
  host : t.env.host = ops
  readLog : t.env.readLog = log
  noReset : NoReset t.env.turns

section HostAt

variable {b c t : State} {ops : List HostOp} {log : List (Byte × Byte)}

theorem HostAt.seq_eq (h : HostAt b ops log t) : t.seq = b.seq := by
  rw [h.block]; rfl

theorem HostAt.after_takeTurn (h : HostAt b ops log t) : HostAt b ops log (takeTurn t) :=
  ⟨h.block.trans (takeTurn_sameBlock t), h.host, h.readLog, fun hm => h.noReset (List.mem_of_mem_tail hm)⟩

theorem HostAt.after_setHost (h : HostAt b ops log t) (ops' : List HostOp) : HostAt b ops' log (t.setHost ops') :=
  ⟨h.block.trans (setHost_sameBlock t ops'), rfl, h.readLog, h.noReset⟩

theorem HostAt.after_memRead (h : HostAt b ops log t) (off : Byte) :
    HostAt b ops ((off, readValue off t) :: log) (memRead off t) :=
  ⟨h.block.trans (memRead_sameBlock off t), h.host, by rw [memRead_readLog, h.readLog], h.noReset⟩

theorem HostAt.nextAgent_ne_reset (h : HostAt b ops log t) : nextAgent t ≠ .reset := by
  cases hts : t.env.turns with
  | nil => unfold nextAgent; rw [hts]; dsimp only; split <;> simp
  | cons a ts =>
    rw [nextAgent_cons hts]
    exact fun ha => h.noReset (by rw [hts, ha]; exact List.mem_cons_self)

/-- At IDLE the host moves once the sequencer's turns before its own are over, and these do nothing. -/
theorem HostAt.eventually_of_hostTurn {P : State → Prop} (h : HostAt b ops log t) (hi : b.seq = .idle)
    (hturn : ∀ u, HostAt b ops log u → ∃ v, hostTurn u = .next v ∧ P v) : Eventually P t := by
  have hmove {u : State} (hu : HostAt b ops log u) (ha : nextAgent u = .host) : Eventually P u := by
    obtain ⟨v, hv, hP⟩ := hturn _ hu.after_takeTurn
    exact .of_step ((step_of_nextAgent ha).trans hv) (.now hP)
  generalize hts : t.env.turns = ts
  induction ts generalizing t with
  | nil => exact hmove h (nextAgent_nil_idle hts (h.seq_eq.trans hi))
  | cons a ts ih =>
    cases a with
    | host => exact hmove h (nextAgent_cons hts)
    | sequencer =>
      have hstep : step t = .next (takeTurn t) := by
        rw [step_of_nextAgent (nextAgent_cons hts), agentStep, seqStep_idle (h.after_takeTurn.seq_eq.trans hi)]
      exact .of_step hstep (ih h.after_takeTurn (by rw [takeTurn_turns, hts, List.tail_cons]))
    | reset => exact absurd (nextAgent_cons hts) h.nextAgent_ne_reset

/-! ### The host's operations at IDLE -/

theorem HostAt.write {off v : Byte} (h : HostAt b (.write off v :: ops) log t) (hi : b.seq = .idle)
    (hw : ∀ e, memWrite off v (b.setEnv e) = .next (c.setEnv e)) : Eventually (HostAt c ops log) t := by
  refine h.eventually_of_hostTurn hi fun u hu => ⟨c.setEnv (u.setHost ops).env, ?_, rfl, rfl, hu.readLog, hu.noReset⟩
  have hset : u.setHost ops = b.setEnv (u.setHost ops).env := hu.block.trans (setHost_sameBlock u ops)
  calc hostTurn u = memWrite off v (u.setHost ops) := by rw [hostTurn, hu.host]
    _ = memWrite off v (b.setEnv (u.setHost ops).env) := by rw [← hset]
    _ = .next (c.setEnv (u.setHost ops).env) := hw _

/-- A turn that is one read logs what the window of the block shows. -/
theorem HostAt.logs_read {off v : Byte} {rest : List HostOp} (h : HostAt b ops log t) (hi : b.seq = .idle)
    (hv : ∀ e, readValue off (b.setEnv e) = v)
    (hturn : ∀ u, HostAt b ops log u → hostTurn u = .next (memRead off (u.setHost rest))) :
    Eventually (HostAt b rest ((off, v) :: log)) t := by
  refine h.eventually_of_hostTurn hi fun u hu => ⟨_, hturn u hu, ?_⟩
  have hread := (hu.after_setHost rest).after_memRead off
  rwa [readValue_setHost, hu.block, hv, ← hu.block] at hread

theorem HostAt.read {off v : Byte} (h : HostAt b (.read off :: ops) log t) (hi : b.seq = .idle)
    (hv : ∀ e, readValue off (b.setEnv e) = v) : Eventually (HostAt b ops ((off, v) :: log)) t :=
  h.logs_read hi hv fun u hu => by rw [hostTurn, hu.host]

theorem HostAt.poll_done {off mask val v : Byte} (h : HostAt b (.poll off mask val :: ops) log t) (hi : b.seq = .idle)
    (hv : ∀ e, readValue off (b.setEnv e) = v) (hm : v &&& mask = val) :
    Eventually (HostAt b ops ((off, v) :: log)) t :=
  h.logs_read hi hv fun u hu => hostTurn_poll_done hu.host (by rw [hu.block, hv, hm])

/-! ### Waiting -/

theorem status_and_one (s : State) : s.status &&& 0x01#8 = flagByte s.busy := by
  rw [BitVec.and_one_eq_setWidth_ofBool_getLsbD, status_getLsbD_zero]
  cases s.busy <;> rfl

theorem seqStep_setEnv (s : State) (e : Env) : seqStep (s.setEnv e) = (seqStep s).setEnv e :=
  calc seqStep (s.setEnv e) = ((seqStep s).setError s.err s.errcode).setEnv e := seqStep_setError_setEnv s s.err s.errcode e
    _ = ((seqStep s).setError (seqStep s).err (seqStep s).errcode).setEnv e := by rw [seqStep_err, seqStep_errcode]

theorem iterate_stepsLeft_of_idle {s : State} (hi : s.seq = .idle) : seqStep^[stepsLeft s.seq] s = s := by
  rw [hi]; rfl

/-- The first of the steps that are left. -/
theorem iterate_stepsLeft_of_busy {s : State} (hb : s.seq ≠ .idle) :
    seqStep^[stepsLeft s.seq] s = seqStep^[stepsLeft (seqStep s).seq] (seqStep s) := by
  have hpos : stepsLeft s.seq ≠ 0 := mt (stepsLeft_eq_zero_iff _).mp hb
  have hsucc : stepsLeft s.seq = stepsLeft (seqStep s).seq + 1 := by rw [stepsLeft_seqStep]; omega
  rw [hsucc, Function.iterate_succ_apply]

theorem HostAt.after_seqStep (h : HostAt b ops log t) : HostAt (seqStep b) ops log (seqStep (takeTurn t)) := by
  have ht := h.after_takeTurn
  refine ⟨?_, by rw [seqStep_env, ht.host], by rw [seqStep_env, ht.readLog], by rw [seqStep_env]; exact ht.noReset⟩
  rw [SameBlock, seqStep_env, ← seqStep_setEnv, ← ht.block]

/-- While a command runs and the host waits, a step is one of the command or one more read of STATUS. -/
theorem HostAt.step_of_waiting {ls : List HostLine} (h : HostAt b (programOps (.wait :: ls)) log t) (hb : b.seq ≠ .idle) :
    ∃ u, step t = .next u ∧ u.env.turns = t.env.turns.tail ∧
      (HostAt (seqStep b) (programOps (.wait :: ls)) log u ∨
        t.env.turns ≠ [] ∧ ∃ v, HostAt b (programOps (.wait :: ls)) ((0x21#8, v) :: log) u) := by
  have hbusy : t.busy = true := (busy_iff t).mpr (h.seq_eq ▸ hb)
  cases ha : nextAgent t with
  | host =>
    have hturns : t.env.turns ≠ [] := fun hnil => by rw [nextAgent_nil_busy hnil hbusy] at ha; cases ha
    have hpoll : readValue 0x21#8 (takeTurn t) &&& 0x01#8 ≠ 0x00#8 := by
      rw [readValue_takeTurn, readValue_status, status_and_one, hbusy]
      decide
    exact ⟨_, (step_of_nextAgent ha).trans (hostTurn_poll_again h.after_takeTurn.host hpoll), rfl,
      .inr ⟨hturns, _, h.after_takeTurn.after_memRead 0x21#8⟩⟩
  | sequencer => exact ⟨_, step_of_nextAgent ha, by rw [seqStep_env, takeTurn_turns], .inl h.after_seqStep⟩
  | reset => exact absurd ha h.nextAgent_ne_reset

/-- What the polls of WAIT log: reads of STATUS only. -/
def StatusReads (log : List (Byte × Byte)) : Prop := ∀ e ∈ log, e.1 = 0x21#8

/-- While the host polls STATUS the running command comes to its end. -/
theorem HostAt.eventually_idle {ls : List HostLine} (h : HostAt b (programOps (.wait :: ls)) log t) :
    Eventually (fun u => ∃ polls, StatusReads polls ∧
      HostAt (seqStep^[stepsLeft b.seq] b) (programOps (.wait :: ls)) (polls ++ log) u) t := by
  generalize hm : stepsLeft b.seq + t.env.turns.length = m
  induction m using Nat.strong_induction_on generalizing b log t with
  | _ m ih =>
  by_cases hi : b.seq = .idle
  · rw [iterate_stepsLeft_of_idle hi]
    exact .now ⟨[], by simp [StatusReads], h⟩
  have hpos : stepsLeft b.seq ≠ 0 := mt (stepsLeft_eq_zero_iff _).mp hi
  obtain ⟨u, hstep, hturns, hu | ⟨hne, v, hu⟩⟩ := h.step_of_waiting hi
  · rw [iterate_stepsLeft_of_busy hi]
    refine .of_step hstep (ih _ ?_ hu rfl)
    rw [stepsLeft_seqStep, hturns, List.length_tail]
    omega
  · have hlen := List.length_pos_iff.mpr hne
    refine .of_step hstep ((ih _ ?_ hu rfl).bind fun w => ?_)
    · rw [hturns, List.length_tail]
      omega
    · rintro ⟨polls, hpolls, hw⟩
      exact .now ⟨polls ++ [(0x21#8, v)], by simpa [StatusReads, or_imp, forall_and] using hpolls, by simpa using hw⟩

/-! ### One rule a line of a host program -/

theorem HostAt.wait {ls : List HostLine} (h : HostAt b (programOps (.wait :: ls)) log t) :
    Eventually (fun u => ∃ polls, StatusReads polls ∧
      HostAt (seqStep^[stepsLeft b.seq] b) (programOps ls) (polls ++ log) u) t := by
  refine h.eventually_idle.bind ?_
  rintro u ⟨polls, hpolls, hu⟩
  have hidle := iterate_stepsLeft_idle b
  generalize seqStep^[stepsLeft b.seq] b = c at hu hidle
  have hdone : c.status &&& 0x01#8 = 0x00#8 := by
    rw [status_and_one, (not_busy_iff c).mpr hidle]
    rfl
  refine (HostAt.poll_done hu hidle (fun e => readValue_status (c.setEnv e)) hdone).bind fun w hw => .now ?_
  exact ⟨(0x21#8, c.status) :: polls, by simpa [StatusReads] using hpolls, hw⟩

theorem HostAt.cmd {ls : List HostLine} {i : Instr} (h : HostAt b (programOps (.cmd i :: ls)) log t) (hi : b.seq = .idle)
    (hexec : ∀ e, exec i (b.setEnv e) = .next (c.setEnv e)) : Eventually (HostAt c (programOps ls) log) t :=
  HostAt.write h hi fun e => (memWrite_cmd_command (decode_encode i) _).trans (hexec e)

/-- The block `d` with the bytes of `p` at the indices `is`. -/
def overwrite (p : Block) : List (Fin 16) → Block → Block
  | [], d => d
  | i :: is, d => overwrite p is (d.set i.val p[i])

theorem overwrite_getElem (p : Block) (is : List (Fin 16)) (d : Block) (j : Fin 16) (h : j ∈ is ∨ d[j] = p[j]) :
    (overwrite p is d)[j] = p[j] := by
  induction is generalizing d with
  | nil => simpa [overwrite] using h
  | cons i is ih =>
    refine ih _ ?_
    by_cases hij : i = j
    · subst hij
      exact .inr (Vector.getElem_set_self i.isLt)
    · have hne : i.val ≠ j.val := fun e => hij (Fin.ext e)
      have hset : (d.set i.val p[i])[j] = d[j] := Vector.getElem_set_ne i.isLt j.isLt hne
      rw [hset]
      exact h.imp_left fun hj => (List.mem_cons.mp hj).resolve_left (Ne.symm hij)

/-- Sixteen bytes written one after the other are the whole block. -/
theorem overwrite_finRange (p d : Block) : overwrite p (List.finRange 16) d = p :=
  Vector.ext fun j hj => overwrite_getElem p _ d ⟨j, hj⟩ (.inl (List.mem_finRange _))

/-- The writes of the bytes of `p` at some indices, one a turn, into the store that `store` sets. -/
theorem HostAt.load {store : Block → State} {off : Fin 16 → Byte} (hi : ∀ d, (store d).seq = .idle)
    (hw : ∀ d i v e, memWrite (off i) v ((store d).setEnv e) = .next ((store (d.set i.val v)).setEnv e)) (p : Block)
    (is : List (Fin 16)) (d : Block) {t : State}
    (h : HostAt (store d) (is.map (fun i => .write (off i) p[i]) ++ ops) log t) :
    Eventually (HostAt (store (overwrite p is d)) ops log) t := by
  induction is generalizing d t with
  | nil => exact .now h
  | cons i is ih => exact (HostAt.write h (hi d) (hw d i p[i])).bind fun u hu => ih _ hu

theorem HostAt.ldkey {ls : List HostLine} {k : Block} (h : HostAt b (programOps (.ldkey k.toList :: ls)) log t)
    (hi : b.seq = .idle) : Eventually (HostAt (b.setKey k) (programOps ls) log) t := by
  have hops : lineOps (.ldkey k.toList) = (List.finRange 16).map fun i => .write (BitVec.ofNat 8 i.val) k[i] := by
    rw [lineOps, perByte_block, List.ofFn_eq_map]
    simp only [Nat.zero_add]
  have hload := HostAt.load (store := b.setKey) (off := fun i => BitVec.ofNat 8 i.val) (ops := programOps ls) (log := log)
    (fun _ => hi) (fun d i v e => memWrite_key_of_idle i v (s := (b.setKey d).setEnv e) hi) k (List.finRange 16) b.key (t := t)
  rw [overwrite_finRange, ← hops] at hload
  exact hload h

theorem HostAt.ldblk {ls : List HostLine} {p : Block} (h : HostAt b (programOps (.ldblk p.toList :: ls)) log t)
    (hi : b.seq = .idle) : Eventually (HostAt (b.setData p) (programOps ls) log) t := by
  have hops : lineOps (.ldblk p.toList) = (List.finRange 16).map fun i => .write (BitVec.ofNat 8 (0x10 + i.val)) p[i] := by
    rw [lineOps, perByte_block, List.ofFn_eq_map]
  have hload := HostAt.load (store := b.setData) (off := fun i => BitVec.ofNat 8 (0x10 + i.val)) (ops := programOps ls)
    (log := log) (fun _ => hi) (fun d i v e => memWrite_data_of_idle i v (s := (b.setData d).setEnv e) hi) p (List.finRange 16)
    b.data (t := t)
  rw [overwrite_finRange, ← hops] at hload
  exact hload h

/-- The reads of the bytes of DATA at some indices, one a turn. -/
theorem HostAt.reads (hi : b.seq = .idle) (is : List (Fin 16))
    (h : HostAt b (is.map (fun i => .read (BitVec.ofNat 8 (0x10 + i.val))) ++ ops) log t) :
    Eventually (HostAt b ops ((is.map fun i => (BitVec.ofNat 8 (0x10 + i.val), b.data[i])).reverse ++ log)) t := by
  induction is generalizing log t with
  | nil => exact .now h
  | cons i is ih =>
    have hread := HostAt.read h hi (v := b.data[i]) fun e => readValue_data_of_idle i (s := b.setEnv e) hi
    simpa using hread.bind fun u hu => ih hu

theorem HostAt.rdblk {ls : List HostLine} {p : Block} (h : HostAt b (programOps (.rdblk p.toList :: ls)) log t)
    (hi : b.seq = .idle) :
    Eventually (HostAt b (programOps ls) ((lineExpects (.rdblk b.data.toList)).reverse ++ log)) t := by
  have hops : lineOps (.rdblk p.toList) = (List.finRange 16).map fun i => .read (BitVec.ofNat 8 (0x10 + i.val)) := by
    rw [lineOps, perByte_block, List.ofFn_eq_map]
  have hexpects : lineExpects (.rdblk b.data.toList) =
      (List.finRange 16).map fun i => (BitVec.ofNat 8 (0x10 + i.val), b.data[i]) := by
    rw [lineExpects, map_zipIdx_block, List.ofFn_eq_map]
  have hreads := HostAt.reads hi (List.finRange 16) (ops := programOps ls) (log := log) (t := t)
  rw [← hops, ← hexpects] at hreads
  exact hreads h

end HostAt

theorem hostAt_start {s : State} {ops : List HostOp} (hr : NoReset s.env.turns) (hhost : s.env.host = ops) :
    HostAt s ops s.env.readLog s := ⟨.refl s, hhost, rfl, hr⟩

/-- The registers of two states of the same block, field by field. -/
theorem SameBlock.fields {s t : State} (h : SameBlock s t) :
    t.seq = s.seq ∧ t.key = s.key ∧ t.data = s.data ∧ t.rk = s.rk ∧ t.kv = s.kv ∧ t.err = s.err ∧ t.errcode = s.errcode := by
  rw [h]
  exact ⟨rfl, rfl, rfl, rfl, rfl, rfl, rfl⟩

/-! ### The host sequences of 45_host_commands.md R273 -/

/-- Settles O58: KEY is loaded, EXPAND starts, and WAIT ends when its eleven steps are done. -/
theorem expandKeyHostSequence : Obligations.ExpandKeyHostSequence := by
  intro s k hi hr hhost
  have hload := (hostAt_start hr hhost).ldkey hi
  have hcmd := hload.bind fun u hu => hu.cmd (c := acceptExpand (s.setKey k)) hi fun e => exec_expand_of_idle hi
  obtain ⟨n, t, hrun, polls, -, ht⟩ := hcmd.bind fun u hu => hu.wait
  obtain ⟨c, hsteps⟩ := iterate_seqStep_expand (s := acceptExpand (s.setKey k)) rfl
  have hleft : stepsLeft (acceptExpand (s.setKey k)).seq = 11 := rfl
  rw [hleft, hsteps] at ht
  obtain ⟨hseq, hkey, hdata, hrk, hkv, herr, hcode⟩ := ht.block.fields
  refine ⟨n, t, hrun, ht.host, hseq, hkv, hkey, hrk, hdata, herr, hcode, fun r i => ?_⟩
  rw [readValue_roundKey_of_idle r i hseq, hrk]
  exact congrArg (fun x : Block => x[i]) (roundKey_expandKey k r)

/-- A command that transforms DATA: with KV=1 it starts at `q`, and its eleven steps make `f RK DATA` of DATA and leave all else. -/
structure TransformsData (i : Instr) (q : Seq) (f : RoundKeys → Block → Block) : Prop where
  accepted : ∀ s : State, s.seq = .idle → s.kv = true → exec i s = .next (s.setSeq q)
  steps : stepsLeft q = 11
  result : ∀ s : State, s.seq = q → seqStep^[11] s = { s with data := f s.rk s.data, seq := .idle }

theorem transformsData_encrypt : TransformsData .encrypt (.enc 0) encrypt :=
  ⟨fun _ => exec_encrypt_accepted, rfl, fun _ => iterate_seqStep_encrypt⟩

theorem transformsData_decrypt : TransformsData .decrypt (.dec 10) decrypt :=
  ⟨fun _ => exec_decrypt_accepted, rfl, fun _ => iterate_seqStep_decrypt⟩

/-- DATA is loaded, the command starts, WAIT ends when its eleven steps are done, and the reads show DATA. -/
theorem TransformsData.eventually_hostSequence {i : Instr} {q : Seq} {f : RoundKeys → Block → Block}
    (h : TransformsData i q f) {s : State} {p c : Block} (hi : s.seq = .idle) (hkv : s.kv = true) (hr : NoReset s.env.turns)
    (hhost : s.env.host = programOps [.ldblk p.toList, .cmd i, .wait, .rdblk c.toList]) :
    Eventually (fun t => ∃ polls, StatusReads polls ∧
      HostAt (s.setData (f s.rk p)) [] ((lineExpects (.rdblk (f s.rk p).toList)).reverse ++ (polls ++ s.env.readLog)) t) s := by
  have hload := (hostAt_start hr hhost).ldblk hi
  have hcmd := hload.bind fun u hu => hu.cmd (c := (s.setData p).setSeq q) hi fun e => h.accepted _ hi hkv
  have hwait := hcmd.bind fun u hu => hu.wait
  have hend : seqStep^[stepsLeft q] ((s.setData p).setSeq q) = s.setData (f s.rk p) := by
    rw [h.steps, h.result _ rfl, ← hi]
    rfl
  refine hwait.bind fun u ⟨polls, hpolls, hu⟩ => ?_
  rw [State.setSeq_seq, hend] at hu
  exact (hu.rdblk hi).bind fun t ht => .now ⟨polls, hpolls, ht⟩

/-- The host sequence of R273 for either command, register by register. -/
theorem TransformsData.hostSequence {i : Instr} {q : Seq} {f : RoundKeys → Block → Block} (h : TransformsData i q f)
    {s : State} {p : Block} (hi : s.seq = .idle) (hkv : s.kv = true) (hr : NoReset s.env.turns)
    (hhost : s.env.host = programOps [.ldblk p.toList, .cmd i, .wait, .rdblk (f s.rk p).toList]) :
    ∃ n t polls, Runs n s t ∧ t.env.host = [] ∧ t.seq = .idle ∧ t.data = f s.rk p ∧
      t.env.readLog = (lineExpects (.rdblk (f s.rk p).toList)).reverse ++ polls ++ s.env.readLog ∧ StatusReads polls ∧
      t.key = s.key ∧ t.rk = s.rk ∧ t.kv = true ∧ t.err = s.err ∧ t.errcode = s.errcode := by
  obtain ⟨n, t, hrun, polls, hpolls, ht⟩ := h.eventually_hostSequence hi hkv hr hhost
  obtain ⟨hseq, hkey, hdata, hrk, hkv', herr, hcode⟩ := ht.block.fields
  refine ⟨n, t, polls, hrun, ht.host, hseq.trans hi, hdata, ?_, hpolls, hkey, hrk, hkv'.trans hkv, herr, hcode⟩
  rw [ht.readLog, List.append_assoc]

/-- Settles O59: ENCRYPT transforms DATA by Encrypt. -/
theorem encryptBlockHostSequence : Obligations.EncryptBlockHostSequence :=
  fun _ _ hi hkv hr hhost => transformsData_encrypt.hostSequence hi hkv hr hhost

/-- Settles O60: DECRYPT transforms DATA by Decrypt. -/
theorem decryptBlockHostSequence : Obligations.DecryptBlockHostSequence :=
  fun _ _ hi hkv hr hhost => transformsData_decrypt.hostSequence hi hkv hr hhost

end Sys2Proof.Machine

/-! SUPPORT. The rules that the proofs of the statements of 60_exceptions.md share: what a write to STATUS does, and what a write
anywhere else makes of the error latch. -/

namespace Sys2Proof.Machine

/-! ### Writes to STATUS -/

theorem memWrite_status_clears {v : Byte} (h : v.getLsbD 2 = true) (s : State) :
    memWrite 0x21#8 v s = .next (clearError s) := by
  rw [memWrite_status, writeStatus, clearsError, if_pos h]

theorem memWrite_status_ignored {v : Byte} (h : v.getLsbD 2 = false) (s : State) : memWrite 0x21#8 v s = .next s := by
  rw [memWrite_status, writeStatus_ignored h]

/-! ### The error latch under writes elsewhere -/

/-- The two states agree in ERR and ERRCODE. -/
def SameLatch (s t : State) : Prop := t.err = s.err ∧ t.errcode = s.errcode

/-- From `s` to `t` the error latch is kept, or all that happens is an error report: it is not cleared. -/
def KeepsLatchOrReports (s t : State) : Prop := SameLatch s t ∨ ∃ c, t = raiseError c s

/-- The first error wins: once ERR is 1 a report keeps the latch as well (60_exceptions.md R301). -/
theorem KeepsLatchOrReports.sameLatch {s t : State} (h : KeepsLatchOrReports s t) (he : s.err = true) : SameLatch s t := by
  obtain hsame | ⟨c, rfl⟩ := h
  · exact hsame
  · rw [raiseError_later c he]
    exact ⟨rfl, rfl⟩

theorem KeepsLatchOrReports.of_unlessBusy {act : State → State} {s : State} (h : KeepsLatchOrReports s (act s)) :
    KeepsLatchOrReports s (unlessBusy act s) := by
  unfold unlessBusy
  split
  · exact .inr ⟨.busy, rfl⟩
  · exact h

theorem KeepsLatchOrReports.of_exec {i : Instr} {s t : State} (h : exec i s = .next t) : KeepsLatchOrReports s t := by
  obtain ⟨-, rfl⟩ | ⟨-, hcmd⟩ := exec_cases h
  · exact .inr ⟨.busy, rfl⟩
  obtain ⟨-, rfl⟩ | ⟨-, rfl⟩ | ⟨-, -, rfl⟩ | ⟨-, -, rfl⟩ | ⟨-, -, rfl⟩ := hcmd
  · exact .inl ⟨rfl, rfl⟩
  · exact .inl ⟨rfl, rfl⟩
  · exact .inr ⟨.noKey, rfl⟩
  · exact .inl ⟨rfl, rfl⟩
  · exact .inl ⟨rfl, rfl⟩

/-- No write but one to STATUS clears the error latch (60_exceptions.md R301). -/
theorem KeepsLatchOrReports.of_memWrite {off v : Byte} {s t : State} (h : memWrite off v s = .next t)
    (hoff : off ≠ 0x21#8) : KeepsLatchOrReports s t := by
  obtain ⟨i, -, rfl⟩ | ⟨i, -, rfl⟩ | ⟨-, i, -, hx⟩ | ⟨-, -, rfl⟩ | ⟨hw, -⟩ | ⟨-, rfl⟩ := memWrite_cases h
  · exact .of_unlessBusy (.inl ⟨rfl, rfl⟩)
  · exact .of_unlessBusy (.inl ⟨rfl, rfl⟩)
  · exact .of_exec hx
  · exact .of_unlessBusy (.inr ⟨.illegalCmd, rfl⟩)
  · exact absurd ((windowReg_status_iff off).mp hw) hoff
  · exact .inl ⟨rfl, rfl⟩

/-- While ERR is 1 a write keeps the latch, unless it is a STATUS write with bit 2 set. -/
theorem memWrite_sameLatch_of_err {off v : Byte} {s t : State} (he : s.err = true) (h : memWrite off v s = .next t)
    (hoff : off ≠ 0x21#8 ∨ v.getLsbD 2 = false) : SameLatch s t := by
  by_cases hst : off = 0x21#8
  · subst hst
    rw [memWrite_status_ignored (hoff.resolve_left fun hne => hne rfl)] at h
    cases h
    exact ⟨rfl, rfl⟩
  · exact (KeepsLatchOrReports.of_memWrite h hst).sameLatch he

/-- At IDLE a write to any register but CMD and STATUS meets no error condition (60_exceptions.md R305). -/
theorem memWrite_sameLatch_of_idle {off v : Byte} {s t : State} (hi : s.seq = .idle) (hcmd : off ≠ 0x20#8)
    (hstatus : off ≠ 0x21#8) (h : memWrite off v s = .next t) : SameLatch s t := by
  obtain ⟨i, -, rfl⟩ | ⟨i, -, rfl⟩ | ⟨hw, -⟩ | ⟨hw, -⟩ | ⟨hw, -⟩ | ⟨-, rfl⟩ := memWrite_cases h
  · rw [unlessBusy_idle _ hi]
    exact ⟨rfl, rfl⟩
  · rw [unlessBusy_idle _ hi]
    exact ⟨rfl, rfl⟩
  · exact absurd ((windowReg_cmd_iff off).mp hw) hcmd
  · exact absurd ((windowReg_cmd_iff off).mp hw) hcmd
  · exact absurd ((windowReg_status_iff off).mp hw) hstatus
  · exact ⟨rfl, rfl⟩

/-- With ERR=1, KV=0 and no command running STATUS reads 0x04 (30_encoding.md R106). -/
theorem readValue_status_of_idle_error {s : State} (hi : s.seq = .idle) (hk : s.kv = false) (he : s.err = true) :
    readValue 0x21#8 s = 0x04 := by
  rw [readValue_status, State.status, hi, hk, he, (not_busy_iff s).mpr hi]
  decide

/-! ### The obligations of 60_exceptions.md -/

/-- Settles O6: the host's turn, the sequencer's step and the reset event each go on to a next state. -/
theorem everyStepCompletes : Obligations.EveryStepCompletes := step_completes

/-- Settles O21: a write elsewhere than STATUS reports an error at most, and a report with ERR=1 keeps the latch. -/
theorem errorLatchIsStickyFirstWins : Obligations.ErrorLatchIsStickyFirstWins := by
  refine ⟨fun c _ => raiseError_first c, fun c _ => raiseError_later c, rfl, rfl, rfl, fun s he => ?sticky,
    fun s _ hv => memWrite_status_clears hv s, fun _ => ⟨rfl, rfl⟩⟩
  case sticky =>
    refine ⟨fun off v t h hoff => ?_, fun _ => ⟨he, rfl⟩, (seqStep_err s).trans he, seqStep_errcode s⟩
    obtain ⟨herr, hcode⟩ := memWrite_sameLatch_of_err he h hoff
    exact ⟨herr.trans he, hcode⟩

/-- Settles O26: each access is ignored, changes the environment only, or is accepted, and the eleven steps of DECRYPT keep the
error latch. -/
theorem legalAccessesRaiseNoError : Obligations.LegalAccessesRaiseNoError := by
  refine ⟨fun s off => memRead_sameBlock off s, fun s off v => memWrite_ignored off v s,
    fun s _ hv => memWrite_status_ignored hv s, fun _ => exec_nop_of_idle, fun _ hi _ => exec_expand_of_idle hi,
    fun _ _ hi hk => ⟨exec_encrypt_accepted hi hk, exec_decrypt_accepted hi hk⟩, fun s b hi hk => ?decrypts⟩
  case decrypts =>
    have hdone : seqStep^[11] (acceptDecrypt (s.setData b)) = (s.setData (decrypt s.rk b)).setSeq .idle :=
      iterate_seqStep_decrypt rfl
    refine ⟨acceptDecrypt (s.setData b), exec_decrypt_accepted hi hk, rfl, rfl, ?_⟩
    simp [hdone]

/-- Settles O23: the write is Error(BUSY), which sets the latch when ERR is 0 and does nothing when it is 1. -/
theorem busyDropsWrites : Obligations.BusyDropsWrites := by
  intro s off v hb
  have hbusy := (busy_iff s).mpr hb
  refine ⟨fun hoff he => ?_, fun hoff he => ?_, ?_⟩
  · rw [memWrite_busy hoff v hbusy, raiseError_first .busy he]
    rfl
  · rw [memWrite_busy hoff v hbusy, raiseError_later .busy he]
  · rintro rfl hv
    exact memWrite_status_ignored hv s

/-- Settles O24: the busy check comes first, then the decoder's, then the one of KV, and no other write has a check. -/
theorem errorPriority : Obligations.ErrorPriority := by
  refine ⟨fun s v => ⟨fun hb => memWrite_busy (by decide) v ((busy_iff s).mpr hb),
      fun hi hv => memWrite_cmd_reserved_of_idle hv hi, fun hi hk hv => ?noKey⟩,
    fun _ _ _ _ => memWrite_sameLatch_of_idle, fun _ hi hk => ⟨exec_encrypt_no_key hi hk, exec_decrypt_no_key hi hk⟩,
    fun s ⟨hi, hk, he, _⟩ => ?afterReset⟩
  case noKey =>
    obtain rfl | rfl := hv
    · exact (memWrite_cmd_command (decode_encode .encrypt) s).trans (exec_encrypt_no_key hi hk)
    · exact (memWrite_cmd_command (decode_encode .decrypt) s).trans (exec_decrypt_no_key hi hk)
  case afterReset =>
    refine ⟨s.setError true 0x03, ?_, rfl, readValue_status_of_idle_error hi hk rfl⟩
    rw [exec_encrypt_no_key hi hk, raiseError_first .noKey he]
    rfl

/-- Settles O25: the STATUS write acts on bit 2 alone at any control point, and after it ERR is 0, so the next error is the first. -/
theorem statusWriteClearsError : Obligations.StatusWriteClearsError := by
  refine fun s v => ⟨fun hv => ⟨memWrite_status_clears hv s, fun c => ?_⟩, fun hv => memWrite_status_ignored hv s,
    memRead_sameBlock _ s, memRead_sameBlock _ s⟩
  rw [raiseError_first c rfl, State.setError_errcode]

end Sys2Proof.Machine

/-! SUPPORT. The rules that the proofs of the statements of 70_reset_and_hazards.md share: an invariant along a run, what keeps the
error latch set, what starts a command, how far EXPAND is from its end, and what the reset event draws. -/

namespace Sys2Proof.Machine

/-! ### Invariants along runs -/

/-- What every step keeps is kept by every run. -/
theorem Runs.invariant {P : State → Prop} (hstep : ∀ u v, P u → step u = .next v → P v) {n : Nat} {s t : State}
    (hrun : Runs n s t) (hs : P s) : P t := by
  induction n generalizing s with
  | zero =>
    obtain rfl : s = t := Host.Outcome.next.inj ((run_zero s).symm.trans hrun)
    exact hs
  | succ n ih =>
    obtain ⟨u, hu⟩ := step_completes s
    exact ih ((run_succ hu n).symm.trans hrun) (hstep s u hs hu)

/-! ### What keeps the error latch set -/

/-- No STATUS write with bit 2 set is among the operations (60_exceptions.md R307). -/
def NoClear (ops : List HostOp) : Prop := ∀ v : Byte, HostOp.write 0x21#8 v ∈ ops → v.getLsbD 2 = false

/-- ERR is 1 with the code `c`, and neither a reset nor a clearing STATUS write is to come. -/
structure LatchHeld (c : Byte) (s : State) : Prop where
  err : s.err = true
  errcode : s.errcode = c
  noReset : NoReset s.env.turns
  noClear : NoClear s.env.host

theorem LatchHeld.nextAgent_ne_reset {c : Byte} {s : State} (h : LatchHeld c s) : nextAgent s ≠ .reset :=
  (hostAt_start h.noReset rfl).nextAgent_ne_reset

theorem LatchHeld.after_takeTurn {c : Byte} {s : State} (h : LatchHeld c s) : LatchHeld c (takeTurn s) :=
  ⟨h.err, h.errcode, fun hm => h.noReset (List.mem_of_mem_tail hm), h.noClear⟩

theorem LatchHeld.after_setHost {c : Byte} {s : State} {op : HostOp} {rest : List HostOp} (h : LatchHeld c s)
    (hhost : s.env.host = op :: rest) : LatchHeld c (s.setHost rest) :=
  ⟨h.err, h.errcode, h.noReset, fun v hv => h.noClear v (by rw [hhost]; exact List.mem_cons_of_mem op hv)⟩

theorem LatchHeld.after_memRead {c : Byte} {s : State} (h : LatchHeld c s) (off : Byte) : LatchHeld c (memRead off s) :=
  ⟨h.err, h.errcode, h.noReset, h.noClear⟩

theorem LatchHeld.after_seqStep {c : Byte} {s : State} (h : LatchHeld c s) : LatchHeld c (seqStep s) :=
  ⟨(seqStep_err s).trans h.err, (seqStep_errcode s).trans h.errcode, by rw [seqStep_env]; exact h.noReset,
    by rw [seqStep_env]; exact h.noClear⟩

theorem LatchHeld.after_memWrite {c : Byte} {s t : State} {off v : Byte} (h : LatchHeld c s)
    (hw : memWrite off v s = .next t) (hoff : off ≠ 0x21#8 ∨ v.getLsbD 2 = false) : LatchHeld c t := by
  obtain ⟨herr, hcode⟩ := memWrite_sameLatch_of_err h.err hw hoff
  obtain ⟨-, -, henv⟩ := (WriteEffect.of_memWrite hw).rk_rcon_env
  exact ⟨herr.trans h.err, hcode.trans h.errcode, by rw [henv]; exact h.noReset, by rw [henv]; exact h.noClear⟩

theorem LatchHeld.after_hostTurn {c : Byte} {s t : State} (h : LatchHeld c s) (ht : hostTurn s = .next t) :
    LatchHeld c t := by
  obtain ⟨-, rfl⟩ | ⟨off, v, rest, hhost, hw⟩ | ⟨off, rest, hhost, rfl⟩ |
    ⟨off, _, _, rest, hhost, ⟨-, rfl⟩ | ⟨-, rfl⟩⟩ := hostTurn_cases ht
  · exact h
  · have hclear (hoff : off = 0x21#8) : v.getLsbD 2 = false :=
      h.noClear v (by rw [hhost, hoff]; exact List.mem_cons_self)
    exact (h.after_setHost hhost).after_memWrite hw (imp_iff_not_or.mp hclear)
  · exact (h.after_setHost hhost).after_memRead off
  · exact (h.after_setHost hhost).after_memRead off
  · exact h.after_memRead off

theorem LatchHeld.after_step {c : Byte} {s t : State} (h : LatchHeld c s) (hstep : step s = .next t) : LatchHeld c t := by
  obtain ⟨-, hhost⟩ | ⟨-, rfl⟩ | ⟨hreset, -⟩ := step_cases hstep
  · exact h.after_takeTurn.after_hostTurn hhost
  · exact h.after_takeTurn.after_seqStep
  · exact absurd hreset h.nextAgent_ne_reset

/-! ### What starts a command -/

/-- The byte `b`, written to CMD at IDLE with the given KV, starts a command at the control point `q`. -/
def StartsCommand (b : Byte) (kv : Bool) (q : Seq) : Prop :=
  decode b = .ok .expand ∧ q = .kex 0 ∨ decode b = .ok .encrypt ∧ kv = true ∧ q = .enc 0 ∨
    decode b = .ok .decrypt ∧ kv = true ∧ q = .dec 10

theorem startsCommand_of_exec {b : Byte} {i : Instr} {s t : State} (hd : decode b = .ok i) (hi : s.seq = .idle)
    (h : exec i s = .next t) (ht : t.seq ≠ .idle) : StartsCommand b s.kv t.seq := by
  obtain ⟨hb, -⟩ | ⟨-, hcmd⟩ := exec_cases h
  · exact absurd hi ((busy_iff s).mp hb)
  obtain ⟨-, rfl⟩ | ⟨rfl, rfl⟩ | ⟨-, -, rfl⟩ | ⟨rfl, hk, rfl⟩ | ⟨rfl, hk, rfl⟩ := hcmd
  · exact absurd hi ht
  · exact .inl ⟨hd, rfl⟩
  · exact absurd ((raiseError_seq .noKey s).trans hi) ht
  · exact .inr (.inl ⟨hd, hk, rfl⟩)
  · exact .inr (.inr ⟨hd, hk, rfl⟩)

@[simp] theorem writeStatus_seq (v : Byte) (s : State) : (writeStatus v s).seq = s.seq := by
  unfold writeStatus
  split <;> rfl

/-- Of all writes at IDLE only one to CMD leaves IDLE. -/
theorem memWrite_startsCommand {off v : Byte} {s t : State} (hi : s.seq = .idle) (h : memWrite off v s = .next t)
    (ht : t.seq ≠ .idle) : off = 0x20#8 ∧ StartsCommand v s.kv t.seq := by
  obtain ⟨i, -, rfl⟩ | ⟨i, -, rfl⟩ | ⟨hw, i, hd, hx⟩ | ⟨-, -, rfl⟩ | ⟨-, rfl⟩ | ⟨-, rfl⟩ := memWrite_cases h
  · rw [unlessBusy_idle _ hi] at ht
    exact absurd hi ht
  · rw [unlessBusy_idle _ hi] at ht
    exact absurd hi ht
  · exact ⟨(windowReg_cmd_iff off).mp hw, startsCommand_of_exec hd hi hx ht⟩
  · rw [unlessBusy_idle _ hi, raiseError_seq] at ht
    exact absurd hi ht
  · rw [writeStatus_seq] at ht
    exact absurd hi ht
  · exact absurd hi ht

theorem hostTurn_startsCommand {s t : State} (hi : s.seq = .idle) (h : hostTurn s = .next t) (ht : t.seq ≠ .idle) :
    ∃ b rest, s.env.host = .write 0x20#8 b :: rest ∧ StartsCommand b s.kv t.seq := by
  obtain ⟨-, rfl⟩ | ⟨off, v, rest, hhost, hw⟩ | ⟨off, rest, -, rfl⟩ | ⟨off, _, _, rest, -, ⟨-, rfl⟩ | ⟨-, rfl⟩⟩ :=
    hostTurn_cases h
  · exact absurd hi ht
  · obtain ⟨rfl, hstarts⟩ := memWrite_startsCommand (s := s.setHost rest) hi hw ht
    exact ⟨v, rest, hhost, hstarts⟩
  · exact absurd hi ht
  · exact absurd hi ht
  · exact absurd hi ht

/-! ### Before the last step of EXPAND -/

theorem ExpandReached.kv_eq {s t : State} {r : Round} (h : ExpandReached s r t) : t.kv = s.kv := by
  rw [h.frame]; rfl

/-- Reset-free turns with at most ten of the sequencer do not end EXPAND, and KV is as it was. -/
theorem runs_within_expand {s : State} {ts more : List Agent} (hs : s.seq = .kex 0) (hturns : s.env.turns = ts ++ more)
    (hr : NoReset ts) (hn : ts.count .sequencer < 11) :
    ∃ t, Runs ts.length s t ∧ t.kv = s.kv ∧ ∃ r, t.seq = .kex r := by
  obtain ⟨t, hrun, hst, -⟩ := runs_turns hturns hr (by rw [hs]; exact hn)
  have hreached := expandReached_iterate hs _ hn
  obtain ⟨hseq, -, -, -, hkv, -⟩ := hst.fields
  exact ⟨t, hrun, hkv.trans hreached.kv_eq, _, hseq.trans hreached.seq_eq⟩

/-- While EXPAND runs no byte of RK is shown (45_host_commands.md R262). -/
theorem readValue_rk_of_kex (j : Fin 176) {s : State} {r : Round} (h : s.seq = .kex r) :
    readValue (BitVec.ofNat 8 (0x30 + j.val)) s = Config.freeByte s.env.draws :=
  (read_of_draw (windowByte_rk_draw j ((writesRk_iff _).mpr ⟨r, h⟩))).1

/-! ### A KEY write and the schedule -/

/-- Accepted or not, a KEY write reaches neither RK nor KV. -/
theorem unlessBusy_setKeyByte_rk_kv (i : Fin 16) (v : Byte) (s : State) :
    (unlessBusy (fun s => s.setKeyByte i v) s).rk = s.rk ∧ (unlessBusy (fun s => s.setKeyByte i v) s).kv = s.kv := by
  unfold unlessBusy
  split
  · exact ⟨raiseError_rk .busy s, raiseError_kv .busy s⟩
  · exact ⟨rfl, rfl⟩

/-- With KV=1 the command runs on whatever schedule RK holds, and changes DATA only. -/
theorem TransformsData.exec_then_steps {i : Instr} {q : Seq} {f : RoundKeys → Block → Block} (h : TransformsData i q f)
    {s : State} (hi : s.seq = .idle) (hkv : s.kv = true) :
    ∃ e, exec i s = .next e ∧ seqStep^[11] e = s.setData (f s.rk s.data) := by
  refine ⟨s.setSeq q, h.accepted s hi hkv, ?_⟩
  rw [h.result _ rfl, ← hi]
  rfl

/-! ### The reset event -/

theorem resetEvent_key_getElem (s : State) (i : Fin 16) :
    (resetEvent s).key[i] = Config.freeByte (s.env.draws + i.val) := Vector.getElem_ofFn i.isLt

theorem resetEvent_data_getElem (s : State) (i : Fin 16) :
    (resetEvent s).data[i] = Config.freeByte (s.env.draws + (16 + i.val)) := Vector.getElem_ofFn i.isLt

theorem resetEvent_rk_getElem (s : State) (j : Fin 176) :
    (resetEvent s).rk[j] = Config.freeByte (s.env.draws + (32 + j.val)) := Vector.getElem_ofFn j.isLt

theorem step_reset {s : State} (h : nextAgent s = .reset) : step s = .next (resetEvent (takeTurn s)) :=
  step_of_nextAgent h

/-! ### The obligations of 70_reset_and_hazards.md -/

/-- Settles O17: ten steps from KEX(0) do not reach the one that sets KV, and while EXPAND runs RK is not shown and every command
is Error(BUSY). -/
theorem expandInvalidatesUntilItsLastStep : Obligations.ExpandInvalidatesUntilItsLastStep := by
  intro s ts more hs hk hturns hr hn
  obtain ⟨t, hrun, hkv, r, hseq⟩ := runs_within_expand hs hturns hr (Nat.lt_succ_of_le hn)
  have hbusy : t.busy = true := (busy_iff t).mpr (by simp [hseq])
  exact ⟨t, hrun, hkv.trans hk, ⟨r, hseq⟩, fun j => readValue_rk_of_kex j hseq, exec_busy .encrypt hbusy,
    exec_busy .decrypt hbusy⟩

/-- Settles O18: the write reaches KEY only, and the engines read RK. -/
theorem keyWriteLeavesStaleSchedule : Obligations.KeyWriteLeavesStaleSchedule := by
  intro s i v
  refine ⟨⟨_, memWrite_key i v s, unlessBusy_setKeyByte_rk_kv i v s⟩, fun hi => ?idle⟩
  case idle =>
    exact ⟨s.setKeyByte i v, memWrite_key_of_idle i v hi, rfl, fun hk =>
      ⟨transformsData_encrypt.exec_then_steps (s := s.setKeyByte i v) hi hk,
        transformsData_decrypt.exec_then_steps (s := s.setKeyByte i v) hi hk⟩⟩

/-- Settles O22, by induction on the run: every step keeps the latch held. -/
theorem firstErrorCodeStaysUntilCleared : Obligations.FirstErrorCodeStaysUntilCleared := by
  intro n s t he hr hc hrun
  have hheld : LatchHeld s.errcode t := hrun.invariant (fun _ _ h => h.after_step) ⟨he, rfl, hr, hc⟩
  exact ⟨hheld.err, hheld.errcode⟩

/-- Settles O35: at IDLE a sequencer step does nothing and a reset event leads to IDLE, so the step was the host's turn. -/
theorem idleEndsOnlyByAcceptedCommand : Obligations.IdleEndsOnlyByAcceptedCommand := by
  intro s t hi hstep ht
  obtain ⟨ha, hhost⟩ | ⟨-, rfl⟩ | ⟨-, rfl⟩ := step_cases hstep
  · exact ⟨ha, hostTurn_startsCommand (s := takeTurn s) hi hhost ht⟩
  · rw [seqStep_idle (s := takeTurn s) hi] at ht
    exact absurd hi ht
  · exact absurd rfl ht

/-- Settles O55, from the bytes that the reset event draws and from what the commands do at its control state. -/
theorem resetEventDrawsTheStores : Obligations.ResetEventDrawsTheStores := by
  intro s
  refine ⟨resetEvent_resetControl s, fun i => ⟨resetEvent_key_getElem s i, resetEvent_data_getElem s i⟩,
    resetEvent_rk_getElem s, rfl, rfl, seqStep_idle rfl, ?noKey, exec_expand_of_idle rfl,
    fun ha => ⟨_, step_reset ha, resetEvent_resetControl _⟩⟩
  case noKey =>
    rw [exec_encrypt_no_key rfl rfl, raiseError_first .noKey rfl]
    rfl

/-- Settles O56: the control state of reset, of the reset state and of the reset event. -/
theorem resetSetsControlState : Obligations.ResetSetsControlState :=
  ⟨rfl, rfl, rfl, rfl, resetEvent_resetControl⟩

end Sys2Proof.Machine
